-- ==== Sys2Proof/Word.lean ====
section
/-! DEFINITION. The machine's word types (00_scope.md rules R10 and R31): a register value or an address is a 64-bit
pattern, memory is a sequence of bytes. -/

namespace Sys2Proof

/-- A register value, an address or an immediate operand: a 64-bit unsigned pattern (rule R31). -/
abbrev Word := BitVec 64

/-- One byte of guest memory (rule R110). -/
abbrev Byte := BitVec 8

end Sys2Proof
end

