-- ==== Sys2Proof/Config.lean ====
section
/-! DEFINITION. The parameters the spec leaves to the implementation (00_scope.md rules R10 to R12). A `Config` is
fixed for the life of a machine: it is carried in `State` and no step changes it (assumption log 1). -/

namespace Sys2Proof

/-- The 22 A-extension instructions a machine may implement (48_atomic.md rule R1050). -/
inductive AtomicOp where
  | lrW | scW | amoswapW | amoaddW | amoxorW | amoandW | amoorW | amominW | amomaxW | amominuW | amomaxuW
  | lrD | scD | amoswapD | amoaddD | amoxorD | amoandD | amoorD | amominD | amomaxD | amominuD | amomaxuD
deriving DecidableEq, Repr

/-- The open parameters of rule R11 that a step or an MMU operation reads. `STACK_SIZE`, `AllocBase` and the launch
state are arguments of the operations that use them; the collaborator's answers are a field of `State`. -/
structure Config where
  /-- `HOST_PAGE_SIZE`, in bytes (decision D23). -/
  hostPageSize : Nat
  /-- `IMPLEMENTED_ATOMICS`: the atomics that execute (rule R1050, decision D14). -/
  implementedAtomics : List AtomicOp
  /-- `ENOSYS`: the magnitude of the "not implemented" value (rule R1010, decision D18). -/
  enosys : Word
deriving DecidableEq, Repr

/-- The load reservation exists: `IMPLEMENTED_ATOMICS` contains `LR.W` or `LR.D` (10_state.md rule R113). -/
def Config.hasReservation (c : Config) : Bool :=
  decide (.lrW ∈ c.implementedAtomics) || decide (.lrD ∈ c.implementedAtomics)

/-- `GUEST_PAGE_SIZE` (rule R11, decision D23). -/
def guestPageSize : Nat := 4096

/-- The parameters at the defaults rule R11 gives; the host's page size, which has no default, is 4096
(DESIGN CHOICE, assumption log 2). -/
def Config.default : Config := { hostPageSize := 4096, implementedAtomics := [], enosys := 38 }

/-- Every atomic: the largest `IMPLEMENTED_ATOMICS`. -/
def Config.allAtomics : List AtomicOp :=
  [.lrW, .scW, .amoswapW, .amoaddW, .amoxorW, .amoandW, .amoorW, .amominW, .amomaxW, .amominuW, .amomaxuW,
   .lrD, .scD, .amoswapD, .amoaddD, .amoxorD, .amoandD, .amoorD, .amominD, .amomaxD, .amominuD, .amomaxuD]

end Sys2Proof
end

