-- ==== Sys2Proof/Syntax.lean ====
section
/-! DEFINITION. The instructions as syntax: one constructor per row of spec/opcode_table.json (30_encoding.md rule
R301). An immediate is the final 64-bit operand value (decision D32): offsets in bytes, LUI and AUIPC values already
shifted, compressed offsets scaled. A compressed form is a constructor of its own, because its length (2) decides
`pc + len` and the link value (rule R400); `Instr.expand` in Decode.lean gives the typed instruction it expands to
(assumption log 3). Words the decoder refuses are no constructor here: see `Decoded.invalid`. -/

namespace Sys2Proof

/-- An integer register's number, x0 to x31 (10_state.md rule R101). -/
abbrev XReg := BitVec 5

/-- A floating register's number, f0 to f31 (10_state.md rule R104). -/
abbrev FReg := BitVec 5

/-- The instructions of the opcode table, in the table's order. -/
inductive Instr where
  -- Upper immediates and control transfer (44_control.md, 45_upper_immediate.md)
  /-- `LUI`: semantics R850, decoding R331. -/
  | lui (rd : XReg) (imm : Word)
  /-- `AUIPC`: semantics R851, decoding R325. -/
  | auipc (rd : XReg) (imm : Word)
  /-- `JAL`: semantics R800, decoding R337. -/
  | jal (rd : XReg) (imm : Word)
  /-- `JALR`: semantics R801, decoding R336. -/
  | jalr (rd rs1 : XReg) (imm : Word)
  /-- `BEQ`: semantics R802, decoding R335. -/
  | beq (rs1 rs2 : XReg) (imm : Word)
  /-- `BNE`: semantics R803, decoding R335. -/
  | bne (rs1 rs2 : XReg) (imm : Word)
  /-- `BLT`: semantics R804, decoding R335. -/
  | blt (rs1 rs2 : XReg) (imm : Word)
  /-- `BGE`: semantics R805, decoding R335. -/
  | bge (rs1 rs2 : XReg) (imm : Word)
  /-- `BLTU`: semantics R806, decoding R335. -/
  | bltu (rs1 rs2 : XReg) (imm : Word)
  /-- `BGEU`: semantics R807, decoding R335. -/
  | bgeu (rs1 rs2 : XReg) (imm : Word)
  -- Integer loads and stores (43_loadstore.md)
  /-- `LB`: semantics R751, decoding R321. -/
  | lb (rd rs1 : XReg) (imm : Word)
  /-- `LH`: semantics R752, decoding R321. -/
  | lh (rd rs1 : XReg) (imm : Word)
  /-- `LW`: semantics R753, decoding R321. -/
  | lw (rd rs1 : XReg) (imm : Word)
  /-- `LD`: semantics R754, decoding R321. -/
  | ld (rd rs1 : XReg) (imm : Word)
  /-- `LBU`: semantics R755, decoding R321. -/
  | lbu (rd rs1 : XReg) (imm : Word)
  /-- `LHU`: semantics R756, decoding R321. -/
  | lhu (rd rs1 : XReg) (imm : Word)
  /-- `LWU`: semantics R757, decoding R321. -/
  | lwu (rd rs1 : XReg) (imm : Word)
  /-- `SB`: semantics R758, decoding R327. -/
  | sb (rs1 rs2 : XReg) (imm : Word)
  /-- `SH`: semantics R759, decoding R327. -/
  | sh (rs1 rs2 : XReg) (imm : Word)
  /-- `SW`: semantics R760, decoding R327. -/
  | sw (rs1 rs2 : XReg) (imm : Word)
  /-- `SD`: semantics R761, decoding R327. -/
  | sd (rs1 rs2 : XReg) (imm : Word)
  -- Integer computation (41_integer.md)
  /-- `ADDI`: semantics R611, decoding R324. -/
  | addi (rd rs1 : XReg) (imm : Word)
  /-- `SLTI`: semantics R612, decoding R324. -/
  | slti (rd rs1 : XReg) (imm : Word)
  /-- `SLTIU`: semantics R613, decoding R324. -/
  | sltiu (rd rs1 : XReg) (imm : Word)
  /-- `XORI`: semantics R614, decoding R324. -/
  | xori (rd rs1 : XReg) (imm : Word)
  /-- `ORI`: semantics R615, decoding R324. -/
  | ori (rd rs1 : XReg) (imm : Word)
  /-- `ANDI`: semantics R616, decoding R324. -/
  | andi (rd rs1 : XReg) (imm : Word)
  /-- `SLLI`: semantics R617, decoding R324. -/
  | slli (rd rs1 : XReg) (shamt : BitVec 6)
  /-- `SRLI`: semantics R618, decoding R324. -/
  | srli (rd rs1 : XReg) (shamt : BitVec 6)
  /-- `SRAI`: semantics R619, decoding R324. -/
  | srai (rd rs1 : XReg) (shamt : BitVec 6)
  /-- `ADD`: semantics R601, decoding R330. -/
  | add (rd rs1 rs2 : XReg)
  /-- `SUB`: semantics R602, decoding R330. -/
  | sub (rd rs1 rs2 : XReg)
  /-- `SLL`: semantics R603, decoding R330. -/
  | sll (rd rs1 rs2 : XReg)
  /-- `SLT`: semantics R604, decoding R330. -/
  | slt (rd rs1 rs2 : XReg)
  /-- `SLTU`: semantics R605, decoding R330. -/
  | sltu (rd rs1 rs2 : XReg)
  /-- `XOR`: semantics R606, decoding R330. -/
  | xor (rd rs1 rs2 : XReg)
  /-- `SRL`: semantics R607, decoding R330. -/
  | srl (rd rs1 rs2 : XReg)
  /-- `SRA`: semantics R608, decoding R330. -/
  | sra (rd rs1 rs2 : XReg)
  /-- `OR`: semantics R609, decoding R330. -/
  | or (rd rs1 rs2 : XReg)
  /-- `AND`: semantics R610, decoding R330. -/
  | and (rd rs1 rs2 : XReg)
  -- System (47_system.md)
  /-- `FENCE`: semantics R1000, decoding R323. -/
  | fence (fm pred succ : BitVec 4) (rs1 rd : XReg)
  /-- `ECALL`: semantics R1011, decoding R338. -/
  | ecall
  /-- `EBREAK`: semantics R1012, decoding R338. -/
  | ebreak
  -- Integer computation (41_integer.md)
  /-- `ADDIW`: semantics R625, decoding R326. -/
  | addiw (rd rs1 : XReg) (imm : Word)
  /-- `SLLIW`: semantics R626, decoding R326. -/
  | slliw (rd rs1 : XReg) (shamt : BitVec 5)
  /-- `SRLIW`: semantics R627, decoding R326. -/
  | srliw (rd rs1 : XReg) (shamt : BitVec 5)
  /-- `SRAIW`: semantics R628, decoding R326. -/
  | sraiw (rd rs1 : XReg) (shamt : BitVec 5)
  /-- `ADDW`: semantics R620, decoding R332. -/
  | addw (rd rs1 rs2 : XReg)
  /-- `SUBW`: semantics R621, decoding R332. -/
  | subw (rd rs1 rs2 : XReg)
  /-- `SLLW`: semantics R622, decoding R332. -/
  | sllw (rd rs1 rs2 : XReg)
  /-- `SRLW`: semantics R623, decoding R332. -/
  | srlw (rd rs1 rs2 : XReg)
  /-- `SRAW`: semantics R624, decoding R332. -/
  | sraw (rd rs1 rs2 : XReg)
  -- Multiply and divide (42_muldiv.md)
  /-- `MUL`: semantics R701, decoding R330. -/
  | mul (rd rs1 rs2 : XReg)
  /-- `MULH`: semantics R702, decoding R330. -/
  | mulh (rd rs1 rs2 : XReg)
  /-- `MULHSU`: semantics R703, decoding R330. -/
  | mulhsu (rd rs1 rs2 : XReg)
  /-- `MULHU`: semantics R704, decoding R330. -/
  | mulhu (rd rs1 rs2 : XReg)
  /-- `DIV`: semantics R705, decoding R330. -/
  | div (rd rs1 rs2 : XReg)
  /-- `DIVU`: semantics R706, decoding R330. -/
  | divu (rd rs1 rs2 : XReg)
  /-- `REM`: semantics R707, decoding R330. -/
  | rem (rd rs1 rs2 : XReg)
  /-- `REMU`: semantics R708, decoding R330. -/
  | remu (rd rs1 rs2 : XReg)
  /-- `MULW`: semantics R709, decoding R332. -/
  | mulw (rd rs1 rs2 : XReg)
  /-- `DIVW`: semantics R710, decoding R332. -/
  | divw (rd rs1 rs2 : XReg)
  /-- `DIVUW`: semantics R711, decoding R332. -/
  | divuw (rd rs1 rs2 : XReg)
  /-- `REMW`: semantics R712, decoding R332. -/
  | remw (rd rs1 rs2 : XReg)
  /-- `REMUW`: semantics R713, decoding R332. -/
  | remuw (rd rs1 rs2 : XReg)
  -- Atomics (48_atomic.md)
  /-- `LR.W`: semantics R1060, decoding R329. -/
  | lrW (rd rs1 : XReg) (aq rl : BitVec 1)
  /-- `SC.W`: semantics R1061, decoding R329. -/
  | scW (rd rs1 rs2 : XReg) (aq rl : BitVec 1)
  /-- `AMOSWAP.W`: semantics R1062, decoding R329. -/
  | amoswapW (rd rs1 rs2 : XReg) (aq rl : BitVec 1)
  /-- `AMOADD.W`: semantics R1063, decoding R329. -/
  | amoaddW (rd rs1 rs2 : XReg) (aq rl : BitVec 1)
  /-- `AMOXOR.W`: semantics R1064, decoding R329. -/
  | amoxorW (rd rs1 rs2 : XReg) (aq rl : BitVec 1)
  /-- `AMOAND.W`: semantics R1065, decoding R329. -/
  | amoandW (rd rs1 rs2 : XReg) (aq rl : BitVec 1)
  /-- `AMOOR.W`: semantics R1066, decoding R329. -/
  | amoorW (rd rs1 rs2 : XReg) (aq rl : BitVec 1)
  /-- `AMOMIN.W`: semantics R1067, decoding R329. -/
  | amominW (rd rs1 rs2 : XReg) (aq rl : BitVec 1)
  /-- `AMOMAX.W`: semantics R1068, decoding R329. -/
  | amomaxW (rd rs1 rs2 : XReg) (aq rl : BitVec 1)
  /-- `AMOMINU.W`: semantics R1069, decoding R329. -/
  | amominuW (rd rs1 rs2 : XReg) (aq rl : BitVec 1)
  /-- `AMOMAXU.W`: semantics R1070, decoding R329. -/
  | amomaxuW (rd rs1 rs2 : XReg) (aq rl : BitVec 1)
  /-- `LR.D`: semantics R1071, decoding R329. -/
  | lrD (rd rs1 : XReg) (aq rl : BitVec 1)
  /-- `SC.D`: semantics R1072, decoding R329. -/
  | scD (rd rs1 rs2 : XReg) (aq rl : BitVec 1)
  /-- `AMOSWAP.D`: semantics R1073, decoding R329. -/
  | amoswapD (rd rs1 rs2 : XReg) (aq rl : BitVec 1)
  /-- `AMOADD.D`: semantics R1074, decoding R329. -/
  | amoaddD (rd rs1 rs2 : XReg) (aq rl : BitVec 1)
  /-- `AMOXOR.D`: semantics R1075, decoding R329. -/
  | amoxorD (rd rs1 rs2 : XReg) (aq rl : BitVec 1)
  /-- `AMOAND.D`: semantics R1076, decoding R329. -/
  | amoandD (rd rs1 rs2 : XReg) (aq rl : BitVec 1)
  /-- `AMOOR.D`: semantics R1077, decoding R329. -/
  | amoorD (rd rs1 rs2 : XReg) (aq rl : BitVec 1)
  /-- `AMOMIN.D`: semantics R1078, decoding R329. -/
  | amominD (rd rs1 rs2 : XReg) (aq rl : BitVec 1)
  /-- `AMOMAX.D`: semantics R1079, decoding R329. -/
  | amomaxD (rd rs1 rs2 : XReg) (aq rl : BitVec 1)
  /-- `AMOMINU.D`: semantics R1080, decoding R329. -/
  | amominuD (rd rs1 rs2 : XReg) (aq rl : BitVec 1)
  /-- `AMOMAXU.D`: semantics R1081, decoding R329. -/
  | amomaxuD (rd rs1 rs2 : XReg) (aq rl : BitVec 1)
  -- Floating point (46_float.md)
  /-- `FLW`: semantics R910, decoding R322. -/
  | flw (rd : FReg) (rs1 : XReg) (imm : Word)
  /-- `FSW`: semantics R911, decoding R328. -/
  | fsw (rs1 : XReg) (rs2 : FReg) (imm : Word)
  /-- `FLD`: semantics R912, decoding R322. -/
  | fld (rd : FReg) (rs1 : XReg) (imm : Word)
  /-- `FSD`: semantics R913, decoding R328. -/
  | fsd (rs1 : XReg) (rs2 : FReg) (imm : Word)
  /-- `FMADD.S`: semantics R940, decoding R333. -/
  | fmaddS (rd rs1 rs2 rs3 : FReg) (rm : BitVec 3)
  /-- `FMSUB.S`: semantics R941, decoding R333. -/
  | fmsubS (rd rs1 rs2 rs3 : FReg) (rm : BitVec 3)
  /-- `FNMSUB.S`: semantics R942, decoding R333. -/
  | fnmsubS (rd rs1 rs2 rs3 : FReg) (rm : BitVec 3)
  /-- `FNMADD.S`: semantics R943, decoding R333. -/
  | fnmaddS (rd rs1 rs2 rs3 : FReg) (rm : BitVec 3)
  /-- `FMADD.D`: semantics R944, decoding R333. -/
  | fmaddD (rd rs1 rs2 rs3 : FReg) (rm : BitVec 3)
  /-- `FMSUB.D`: semantics R945, decoding R333. -/
  | fmsubD (rd rs1 rs2 rs3 : FReg) (rm : BitVec 3)
  /-- `FNMSUB.D`: semantics R946, decoding R333. -/
  | fnmsubD (rd rs1 rs2 rs3 : FReg) (rm : BitVec 3)
  /-- `FNMADD.D`: semantics R947, decoding R333. -/
  | fnmaddD (rd rs1 rs2 rs3 : FReg) (rm : BitVec 3)
  /-- `FADD.S`: semantics R950, decoding R334. -/
  | faddS (rd rs1 rs2 : FReg) (rm : BitVec 3)
  /-- `FSUB.S`: semantics R951, decoding R334. -/
  | fsubS (rd rs1 rs2 : FReg) (rm : BitVec 3)
  /-- `FMUL.S`: semantics R952, decoding R334. -/
  | fmulS (rd rs1 rs2 : FReg) (rm : BitVec 3)
  /-- `FDIV.S`: semantics R953, decoding R334. -/
  | fdivS (rd rs1 rs2 : FReg) (rm : BitVec 3)
  /-- `FSQRT.S`: semantics R954, decoding R334. -/
  | fsqrtS (rd rs1 : FReg) (rm : BitVec 3)
  /-- `FSGNJ.S`: semantics R955, decoding R334. -/
  | fsgnjS (rd rs1 rs2 : FReg)
  /-- `FSGNJN.S`: semantics R956, decoding R334. -/
  | fsgnjnS (rd rs1 rs2 : FReg)
  /-- `FSGNJX.S`: semantics R957, decoding R334. -/
  | fsgnjxS (rd rs1 rs2 : FReg)
  /-- `FMIN.S`: semantics R958, decoding R334. -/
  | fminS (rd rs1 rs2 : FReg)
  /-- `FMAX.S`: semantics R959, decoding R334. -/
  | fmaxS (rd rs1 rs2 : FReg)
  /-- `FCVT.W.S`: semantics R960, decoding R334. -/
  | fcvtWS (rd : XReg) (rs1 : FReg) (rm : BitVec 3)
  /-- `FCVT.WU.S`: semantics R961, decoding R334. -/
  | fcvtWUS (rd : XReg) (rs1 : FReg) (rm : BitVec 3)
  /-- `FCVT.L.S`: semantics R962, decoding R334. -/
  | fcvtLS (rd : XReg) (rs1 : FReg) (rm : BitVec 3)
  /-- `FCVT.LU.S`: semantics R963, decoding R334. -/
  | fcvtLUS (rd : XReg) (rs1 : FReg) (rm : BitVec 3)
  /-- `FCVT.S.W`: semantics R964, decoding R334. -/
  | fcvtSW (rd : FReg) (rs1 : XReg) (rm : BitVec 3)
  /-- `FCVT.S.WU`: semantics R965, decoding R334. -/
  | fcvtSWU (rd : FReg) (rs1 : XReg) (rm : BitVec 3)
  /-- `FCVT.S.L`: semantics R966, decoding R334. -/
  | fcvtSL (rd : FReg) (rs1 : XReg) (rm : BitVec 3)
  /-- `FCVT.S.LU`: semantics R967, decoding R334. -/
  | fcvtSLU (rd : FReg) (rs1 : XReg) (rm : BitVec 3)
  /-- `FEQ.S`: semantics R968, decoding R334. -/
  | feqS (rd : XReg) (rs1 rs2 : FReg)
  /-- `FLT.S`: semantics R969, decoding R334. -/
  | fltS (rd : XReg) (rs1 rs2 : FReg)
  /-- `FLE.S`: semantics R970, decoding R334. -/
  | fleS (rd : XReg) (rs1 rs2 : FReg)
  /-- `FCLASS.S`: semantics R971, decoding R334. -/
  | fclassS (rd : XReg) (rs1 : FReg)
  /-- `FMV.X.W`: semantics R920, decoding R334. -/
  | fmvXW (rd : XReg) (rs1 : FReg)
  /-- `FMV.W.X`: semantics R921, decoding R334. -/
  | fmvWX (rd : FReg) (rs1 : XReg)
  /-- `FADD.D`: semantics R972, decoding R334. -/
  | faddD (rd rs1 rs2 : FReg) (rm : BitVec 3)
  /-- `FSUB.D`: semantics R973, decoding R334. -/
  | fsubD (rd rs1 rs2 : FReg) (rm : BitVec 3)
  /-- `FMUL.D`: semantics R974, decoding R334. -/
  | fmulD (rd rs1 rs2 : FReg) (rm : BitVec 3)
  /-- `FDIV.D`: semantics R975, decoding R334. -/
  | fdivD (rd rs1 rs2 : FReg) (rm : BitVec 3)
  /-- `FSQRT.D`: semantics R976, decoding R334. -/
  | fsqrtD (rd rs1 : FReg) (rm : BitVec 3)
  /-- `FSGNJ.D`: semantics R977, decoding R334. -/
  | fsgnjD (rd rs1 rs2 : FReg)
  /-- `FSGNJN.D`: semantics R978, decoding R334. -/
  | fsgnjnD (rd rs1 rs2 : FReg)
  /-- `FSGNJX.D`: semantics R979, decoding R334. -/
  | fsgnjxD (rd rs1 rs2 : FReg)
  /-- `FMIN.D`: semantics R980, decoding R334. -/
  | fminD (rd rs1 rs2 : FReg)
  /-- `FMAX.D`: semantics R981, decoding R334. -/
  | fmaxD (rd rs1 rs2 : FReg)
  /-- `FCVT.W.D`: semantics R982, decoding R334. -/
  | fcvtWD (rd : XReg) (rs1 : FReg) (rm : BitVec 3)
  /-- `FCVT.WU.D`: semantics R983, decoding R334. -/
  | fcvtWUD (rd : XReg) (rs1 : FReg) (rm : BitVec 3)
  /-- `FCVT.L.D`: semantics R984, decoding R334. -/
  | fcvtLD (rd : XReg) (rs1 : FReg) (rm : BitVec 3)
  /-- `FCVT.LU.D`: semantics R985, decoding R334. -/
  | fcvtLUD (rd : XReg) (rs1 : FReg) (rm : BitVec 3)
  /-- `FCVT.D.W`: semantics R986, decoding R334. -/
  | fcvtDW (rd : FReg) (rs1 : XReg) (rm : BitVec 3)
  /-- `FCVT.D.WU`: semantics R987, decoding R334. -/
  | fcvtDWU (rd : FReg) (rs1 : XReg) (rm : BitVec 3)
  /-- `FCVT.D.L`: semantics R988, decoding R334. -/
  | fcvtDL (rd : FReg) (rs1 : XReg) (rm : BitVec 3)
  /-- `FCVT.D.LU`: semantics R989, decoding R334. -/
  | fcvtDLU (rd : FReg) (rs1 : XReg) (rm : BitVec 3)
  /-- `FEQ.D`: semantics R990, decoding R334. -/
  | feqD (rd : XReg) (rs1 rs2 : FReg)
  /-- `FLT.D`: semantics R991, decoding R334. -/
  | fltD (rd : XReg) (rs1 rs2 : FReg)
  /-- `FLE.D`: semantics R992, decoding R334. -/
  | fleD (rd : XReg) (rs1 rs2 : FReg)
  /-- `FCLASS.D`: semantics R993, decoding R334. -/
  | fclassD (rd : XReg) (rs1 : FReg)
  /-- `FMV.X.D`: semantics R922, decoding R334. -/
  | fmvXD (rd : XReg) (rs1 : FReg)
  /-- `FMV.D.X`: semantics R923, decoding R334. -/
  | fmvDX (rd : FReg) (rs1 : XReg)
  /-- `FCVT.S.D`: semantics R930, decoding R334. -/
  | fcvtSD (rd rs1 : FReg) (rm : BitVec 3)
  /-- `FCVT.D.S`: semantics R931, decoding R334. -/
  | fcvtDS (rd rs1 : FReg) (rm : BitVec 3)
  -- Compressed forms (30_encoding.md rules R410 to R451); each expands to the full instruction its docstring names
  /-- `C.ADDI4SPN` (rule R410): expands to `ADDI rd, x2, imm`, rule R611. -/
  | cAddi4spn (rd : XReg) (imm : Word)
  /-- `C.FLD` (rule R411): expands to `FLD rd, imm(rs1)`, rule R912. -/
  | cFld (rd : FReg) (rs1 : XReg) (imm : Word)
  /-- `C.LW` (rule R412): expands to `LW rd, imm(rs1)`, rule R753. -/
  | cLw (rd rs1 : XReg) (imm : Word)
  /-- `C.LD` (rule R413): expands to `LD rd, imm(rs1)`, rule R754. -/
  | cLd (rd rs1 : XReg) (imm : Word)
  /-- `C.FSD` (rule R415): expands to `FSD rs2, imm(rs1)`, rule R913. -/
  | cFsd (rs1 : XReg) (rs2 : FReg) (imm : Word)
  /-- `C.SW` (rule R416): expands to `SW rs2, imm(rs1)`, rule R760. -/
  | cSw (rs1 rs2 : XReg) (imm : Word)
  /-- `C.SD` (rule R417): expands to `SD rs2, imm(rs1)`, rule R761. -/
  | cSd (rs1 rs2 : XReg) (imm : Word)
  /-- `C.NOP` (rule R420): expands to `ADDI x0, x0, 0`, rule R611. -/
  | cNop
  /-- `C.ADDI` (rule R420): expands to `ADDI rd, rd, imm`, rule R611. -/
  | cAddi (rd : XReg) (imm : Word)
  /-- `C.ADDIW` (rule R421): expands to `ADDIW rd, rd, imm`, rule R625. -/
  | cAddiw (rd : XReg) (imm : Word)
  /-- `C.LI` (rule R422): expands to `ADDI rd, x0, imm`, rule R611. -/
  | cLi (rd : XReg) (imm : Word)
  /-- `C.ADDI16SP` (rule R423): expands to `ADDI x2, x2, imm`, rule R611. -/
  | cAddi16sp (imm : Word)
  /-- `C.LUI` (rule R424): expands to `LUI rd, imm`, rule R850. -/
  | cLui (rd : XReg) (imm : Word)
  /-- `C.SRLI` (rule R425): expands to `SRLI rd, rd, shamt`, rule R618. -/
  | cSrli (rd : XReg) (shamt : BitVec 6)
  /-- `C.SRAI` (rule R426): expands to `SRAI rd, rd, shamt`, rule R619. -/
  | cSrai (rd : XReg) (shamt : BitVec 6)
  /-- `C.ANDI` (rule R427): expands to `ANDI rd, rd, imm`, rule R616. -/
  | cAndi (rd : XReg) (imm : Word)
  /-- `C.SUB` (rule R428): expands to `SUB rd, rd, rs2`, rule R602. -/
  | cSub (rd rs2 : XReg)
  /-- `C.XOR` (rule R429): expands to `XOR rd, rd, rs2`, rule R606. -/
  | cXor (rd rs2 : XReg)
  /-- `C.OR` (rule R430): expands to `OR rd, rd, rs2`, rule R609. -/
  | cOr (rd rs2 : XReg)
  /-- `C.AND` (rule R431): expands to `AND rd, rd, rs2`, rule R610. -/
  | cAnd (rd rs2 : XReg)
  /-- `C.SUBW` (rule R432): expands to `SUBW rd, rd, rs2`, rule R621. -/
  | cSubw (rd rs2 : XReg)
  /-- `C.ADDW` (rule R433): expands to `ADDW rd, rd, rs2`, rule R620. -/
  | cAddw (rd rs2 : XReg)
  /-- `C.J` (rule R435): expands to `JAL x0, imm`, rule R800. -/
  | cJ (imm : Word)
  /-- `C.BEQZ` (rule R436): expands to `BEQ rs1, x0, imm`, rule R802. -/
  | cBeqz (rs1 : XReg) (imm : Word)
  /-- `C.BNEZ` (rule R437): expands to `BNE rs1, x0, imm`, rule R803. -/
  | cBnez (rs1 : XReg) (imm : Word)
  /-- `C.SLLI` (rule R440): expands to `SLLI rd, rd, shamt`, rule R617. -/
  | cSlli (rd : XReg) (shamt : BitVec 6)
  /-- `C.FLDSP` (rule R441): expands to `FLD rd, imm(x2)`, rule R912. -/
  | cFldsp (rd : FReg) (imm : Word)
  /-- `C.LWSP` (rule R442): expands to `LW rd, imm(x2)`, rule R753. -/
  | cLwsp (rd : XReg) (imm : Word)
  /-- `C.LDSP` (rule R443): expands to `LD rd, imm(x2)`, rule R754. -/
  | cLdsp (rd : XReg) (imm : Word)
  /-- `C.JR` (rule R444): expands to `JALR x0, 0(rs1)`, rule R801. -/
  | cJr (rs1 : XReg)
  /-- `C.MV` (rule R445): expands to `ADD rd, x0, rs2`, rule R601. -/
  | cMv (rd rs2 : XReg)
  /-- `C.EBREAK` (rule R446): expands to `EBREAK`, rule R1012. -/
  | cEbreak
  /-- `C.JALR` (rule R447): expands to `JALR x1, 0(rs1)`, rule R801. -/
  | cJalr (rs1 : XReg)
  /-- `C.ADD` (rule R448): expands to `ADD rd, rd, rs2`, rule R601. -/
  | cAdd (rd rs2 : XReg)
  /-- `C.FSDSP` (rule R449): expands to `FSD rs2, imm(x2)`, rule R913. -/
  | cFsdsp (rs2 : FReg) (imm : Word)
  /-- `C.SWSP` (rule R450): expands to `SW rs2, imm(x2)`, rule R760. -/
  | cSwsp (rs2 : XReg) (imm : Word)
  /-- `C.SDSP` (rule R451): expands to `SD rs2, imm(x2)`, rule R761. -/
  | cSdsp (rs2 : XReg) (imm : Word)
deriving DecidableEq, Repr

end Sys2Proof
end

