-- ==== Sys2Proof/Machine/State.lean ====
section
/-! DEFINITION. The machine's state as plain data (10_state.md rules R100 to R140), the halt outcomes as `Fault`
(rule R130), and the state the model starts from. -/

namespace Sys2Proof.Machine

/-- A region of guest memory (rule R110). Its bytes are the cells of `State.mem` in `base .. base+length-1`
(assumption log 6). -/
structure Region where
  /-- First guest address of the region. -/
  base : Word
  /-- Number of bytes, at least 1. -/
  length : Word
  /-- The allocation-time read/write tag. -/
  writable : Bool
  /-- Host-allocated-and-owned, or injected-and-borrowed. -/
  owned : Bool
deriving DecidableEq, Repr

/-- The contents of guest memory: (address, byte) pairs, addresses strictly rising, no byte equal to what an unlisted
address of a region holds, which is 0 (rules R205, R230). -/
abbrev Memory := List Host.Cell

/-- The width of a load reservation: 4 or 8 bytes (rule R113). -/
inductive ResvWidth where
  | w4 | w8
deriving DecidableEq, Repr

/-- What the syscall collaborator returns for one call (47_system.md rule R1010). -/
inductive SyscallResult where
  /-- A value to place in the return register. -/
  | ret (value : Word)
  /-- Unconditional process termination with an exit code. -/
  | exit (code : Word)
deriving DecidableEq, Repr

/-- One thing the collaborator does to guest memory or the region table during a call (rules R1010, R209). -/
inductive GuestOp where
  /-- Write one byte through the MMU (`translate`, which checks no permission: rule R203). -/
  | poke (address : Word) (value : Byte)
  /-- `allocate(length, is_stack)` with the base the draw `AllocBase` gives (rules R205, R206). -/
  | allocate (length : Word) (isStack : Bool) (draw : Option Word)
  /-- `deallocate(address, length)` (rule R207). -/
  | deallocate (address length : Word)
  /-- `register_host_memory` of the host's bytes at the chosen base (rule R208). -/
  | register (base : Word) (writable : Bool) (bytes : List Byte)
deriving DecidableEq, Repr

/-- The collaborator's answer to one call, whatever its number (rule R1010, assumption log 7): what it does to memory
and regions, in order, and its result. -/
inductive SyscallAnswer where
  /-- The number is not recognised: the result is the negated "not implemented" value. -/
  | notRecognised (effects : List GuestOp)
  /-- The number is recognised, with this result. -/
  | recognised (result : SyscallResult) (effects : List GuestOp)
deriving DecidableEq, Repr

/-- The state of the block (rule R100), with the parameters of rule R11 and the collaborator's answers beside it. -/
structure State where
  /-- The program counter (rule R108). -/
  pc : Word
  /-- The stored integer registers: index k holds x(k+1); x0 is never stored (rule R101). -/
  x : Vector Word 31
  /-- The floating registers f0 to f31, as bit patterns (rule R104). -/
  f : Vector Word 32
  /-- The region table, by rising base address (rule R111). -/
  regions : List Region
  /-- The bytes of all regions (rules R110, R112). -/
  mem : Memory
  /-- The load reservation: its address and width (rule R113). Where it does not exist it is none, an invariant of every
  step: `State.resvWf` in Safety.lean (assumption log 10). -/
  resv : Option (Word × ResvWidth)
  /-- The parameters (rules R10, R11); no step changes them (assumption log 1). -/
  cfg : Config
  /-- The model's own field: the syscall collaborator's answers to the calls still to come (assumption log 7). -/
  syscalls : List SyscallAnswer
deriving DecidableEq, Repr

/-- The direction of a memory fault (rule R131). -/
inductive Direction where
  | load | store
deriving DecidableEq, Repr

/-- The halt outcomes of a step (rule R130): each ends the run. All but `exit` leave the state as it was before the
instruction, with pc at the instruction (40_execution_cycle.md rule R505). -/
inductive Fault where
  /-- `Break`: raised by EBREAK and C.EBREAK (rules R1012, R1103). Safe: the spec's own outcome. -/
  | breakpoint
  /-- `ReservedInstruction(raw, len)`: raised by the step for a word the decoder refuses (rule R502), and by FCVT.S.D and
  FCVT.D.S for a reserved rm (rules R901, R1102). Safe: the spec's own outcome. -/
  | reservedInstruction (raw : BitVec 32) (len : Nat)
  /-- `MemoryFault{dir, a}`: raised by fetch, loads, stores and atomics for an access that is not admitted
  (rules R211 to R214, R1101). Safe: the spec's own outcome. -/
  | memoryFault (dir : Direction) (a : Word)
  /-- `Exit(code)`: raised by ECALL when the collaborator signals termination (rule R1011). It carries the state the step
  leaves, because the collaborator's effects and the cleared reservation stay. Safe: the spec's own outcome. -/
  | exit (code : Word) (after : State)
  /-- `Unimplemented(insn)`: raised by the 52 floating-point instructions of 46_float.md rule R939, and by an atomic that
  is not in `IMPLEMENTED_ATOMICS` or whose address is misaligned (rules R1050, R1054, R1104). Safe: the spec's own
  outcome. -/
  | unimplemented (insn : Instr)
deriving DecidableEq, Repr

/-- Why the model gives an instruction no meaning. -/
inductive Refusal where
  /-- The instruction has no meaning in the model yet; raised by `exec`'s arm alone. Safe: nothing is claimed. No arm
  raises it any more. -/
  | notModelled (mnemonic : String)
deriving DecidableEq, Repr

/-- The machine as it is constructed with the default launch state (70_reset_and_hazards.md rules R1200, R1201): every
register 0, no region, no reservation, the default parameters. The registers and pc are launch inputs the spec gives
no value for (rule R140); 0 is the model's (DESIGN CHOICE, assumption log 4). -/
def State.reset : State :=
  { pc := 0
    x := Vector.replicate 31 0
    f := Vector.replicate 32 0
    regions := []
    mem := []
    resv := none
    cfg := Config.default
    syscalls := [] }

end Sys2Proof.Machine
end

