-- ==== Sys2Proof/Machine/Ops.lean ====
section
/-! DEFINITION. The named operations over registers, memory and the pc that every instruction uses (00_scope.md rules R33
to R35, 20_memory.md rules R200 to R214), and the ways a step ends (10_state.md rule R130). The block has no trap entry
and no return from a trap (60_exceptions.md rules R1130, R1131): an exceptional condition is a halt outcome, so the one
shared operation is `halt`. -/

namespace Sys2Proof.Machine

/-! ### Integer and floating registers (rule R33) -/

/-- `x[i]`: 0 when i = 0. -/
def State.getX (s : State) (r : XReg) : Word :=
  if r = 0 then 0 else s.x[r.toNat - 1]'(by have := r.isLt; omega)

/-- `x[i] <- v`: nothing when i = 0. -/
def State.setX (s : State) (r : XReg) (v : Word) : State :=
  if r = 0 then s else { s with x := s.x.set (r.toNat - 1) v (by have := r.isLt; omega) }

/-- `f[i]`. -/
def State.getF (s : State) (r : FReg) : Word := s.f[r.toNat]'r.isLt

/-- `f[i] <- v`. -/
def State.setF (s : State) (r : FReg) (v : Word) : State := { s with f := s.f.set r.toNat v r.isLt }

/-! ### Ends of a step (rules R35, R504, R505) -/

/-- Outcome `Next`: pc becomes pc + len, modulo 2^64 (rule R504). -/
def advance (len : Nat) (s : State) : Host.Outcome State Fault Refusal :=
  .next { s with pc := s.pc + BitVec.ofNat 64 len }

/-- Outcome `ContinueAt(t)`: pc becomes t, which is not checked (rule R504). -/
def redirect (t : Word) (s : State) : Host.Outcome State Fault Refusal := .next { s with pc := t }

/-- A halt outcome: the run ends, the state stays as it was before the instruction (rule R505). -/
def halt (h : Fault) : Host.Outcome State Fault Refusal := .fault h

/-- `unimplemented` (rule R35): halt with the decoded instruction. -/
def unimplemented (i : Instr) : Host.Outcome State Fault Refusal := halt (.unimplemented i)

/-- Go on with a value, or halt. -/
def andThen {α : Type} (r : Except Fault α) (k : α → Host.Outcome State Fault Refusal) :
    Host.Outcome State Fault Refusal :=
  match r with
  | .ok a => k a
  | .error h => halt h

/-! ### The bytes of memory -/

/-- What an address that memory does not list holds, when a region contains it: 0, the value an owned region is filled
with at allocation (rule R205; a borrowed region's bytes are listed at registration). -/
def unlistedByte : Byte := 0

/-- The byte at an address. -/
def Memory.byte (m : Memory) (a : Nat) : Byte :=
  match m with
  | [] => unlistedByte
  | (k, b) :: rest => if k = a then b else Memory.byte rest a

/-- Write one byte, keeping the addresses rising and no listed byte equal to `unlistedByte`. -/
def Memory.setByte (m : Memory) (a : Nat) (b : Byte) : Memory :=
  match m with
  | [] => if b = unlistedByte then [] else [(a, b)]
  | (k, c) :: rest =>
    if a < k then
      if b = unlistedByte then (k, c) :: rest else (a, b) :: (k, c) :: rest
    else if a = k then
      if b = unlistedByte then rest else (a, b) :: rest
    else (k, c) :: Memory.setByte rest a b

/-- The `n` bytes from `a` up, lowest address first. -/
def Memory.bytes (m : Memory) (a n : Nat) : List Byte :=
  match n with
  | 0 => []
  | n + 1 => m.byte a :: Memory.bytes m (a + 1) n

/-- Write a list of bytes from `a` up. -/
def Memory.setBytes (m : Memory) (a : Nat) (bs : List Byte) : Memory :=
  match bs with
  | [] => m
  | b :: rest => Memory.setBytes (m.setByte a b) (a + 1) rest

/-- Forget the bytes in `lo .. hi-1`. -/
def Memory.clear (m : Memory) (lo hi : Nat) : Memory := m.filter fun c => !(lo ≤ c.1 && c.1 < hi)

/-- Memory is canonical: addresses strictly rise and no listed byte equals `unlistedByte`. -/
def Memory.wf (m : Memory) : Bool :=
  match m with
  | [] => true
  | (a, b) :: rest =>
    b != unlistedByte &&
      (match rest with
       | [] => true
       | (k, _) :: _ => decide (a < k)) && Memory.wf rest

/-- The value of a byte list, least significant byte first (rules R212, R220). -/
def leValue (bs : List Byte) : Nat :=
  match bs with
  | [] => 0
  | b :: rest => b.toNat + 256 * leValue rest

/-- The low `n` bytes of a value, least significant byte first (rules R213, R220). -/
def leBytes (n : Nat) (v : Word) : List Byte :=
  match n with
  | 0 => []
  | n + 1 => v.setWidth 8 :: leBytes n (v >>> 8)

/-! ### Regions: containment, translation, admission (rules R201, R203, R211) -/

/-- Region R contains a when `R.base <= a` and `a - R.base < R.length`, compared as unsigned integers (rule R201). -/
def Region.contains (R : Region) (a : Word) : Bool := decide (R.base ≤ a) && decide (a - R.base < R.length)

/-- `region_of(a)` over a region table (rule R201): the linear scan of rule R203. -/
def regionOf (rs : List Region) (a : Word) : Option Region := rs.find? fun R => R.contains a

/-- `translate(a)` (rule R203): the host address as the pair of the region and the byte's index in it. -/
def State.translate (s : State) (a : Word) : Option (Region × Word) :=
  match regionOf s.regions a with
  | some R => some (R, a - R.base)
  | none => none

/-- An access of `n` bytes at `a` is admitted for reading: all its bytes lie in the one region that holds `a`
(rule R211). -/
def State.readable (s : State) (a : Word) (n : Nat) : Bool :=
  match regionOf s.regions a with
  | some R => decide ((a - R.base).toNat + n ≤ R.length.toNat)
  | none => false

/-- An access of `n` bytes at `a` is admitted for writing: in addition, the region is writable (rule R211). -/
def State.writable (s : State) (a : Word) (n : Nat) : Bool :=
  match regionOf s.regions a with
  | some R => decide ((a - R.base).toNat + n ≤ R.length.toNat) && R.writable
  | none => false

/-! ### Access primitives (rules R212 to R214) -/

/-- `MemRead(a, n)` (rule R212): the little-endian value as a 64-bit pattern, or `MemoryFault(Load, a)`. -/
def memRead (s : State) (a : Word) (n : Nat) : Except Fault Word :=
  if s.readable a n then .ok (BitVec.ofNat 64 (leValue (s.mem.bytes a.toNat n)))
  else .error (.memoryFault .load a)

/-- `MemWrite(a, n, v)` (rule R213): all n bytes, or `MemoryFault(Store, a)` and none. -/
def memWrite (s : State) (a : Word) (n : Nat) (v : Word) : Except Fault State :=
  if s.writable a n then .ok { s with mem := s.mem.setBytes a.toNat (leBytes n v) }
  else .error (.memoryFault .store a)

/-- `FetchRead(a, n)` (rule R214): `MemRead` with the bytes kept apart for the decoder. -/
def fetchRead (s : State) (a : Word) (n : Nat) : Except Fault (List Byte) :=
  if s.readable a n then .ok (s.mem.bytes a.toNat n) else .error (.memoryFault .load a)

end Sys2Proof.Machine
end

