-- ==== Sys2Proof/Machine/Flags.lean ====
section
/-! DEFINITION. The conditions instructions compute. The block has no flags, condition codes or predicate registers
(10_state.md rule R109): a comparison writes 0 or 1 to an integer register or decides a branch directly. -/

namespace Sys2Proof.Machine

/-- `s(a) < s(b)`, as signed integers (00_scope.md rule R31). -/
def ltSigned (a b : Word) : Bool := decide (a.toInt < b.toInt)

/-- `u(a) < u(b)`, as unsigned integers (rule R31). -/
def ltUnsigned (a b : Word) : Bool := decide (a.toNat < b.toNat)

/-- The value a comparison writes: 1 if the condition holds, else 0 (41_integer.md rules R604, R605, R612, R613). -/
def boolWord (c : Bool) : Word := if c then 1 else 0

/-- The condition of BEQ (44_control.md rule R802). -/
def condEq (a b : Word) : Bool := decide (a = b)

/-- The condition of BNE (rule R803). -/
def condNe (a b : Word) : Bool := !condEq a b

/-- The condition of BLT (rule R804). -/
def condLt (a b : Word) : Bool := ltSigned a b

/-- The condition of BGE (rule R805). -/
def condGe (a b : Word) : Bool := !ltSigned a b

/-- The condition of BLTU (rule R806). -/
def condLtu (a b : Word) : Bool := ltUnsigned a b

/-- The condition of BGEU (rule R807). -/
def condGeu (a b : Word) : Bool := !ltUnsigned a b

end Sys2Proof.Machine
end

