-- ==== Sys2Proof/Machine/Operands.lean ====
section
/-! DEFINITION. The operand forms of the instructions: what each shape reads, writes and does to the pc. `len` is the
length of the instruction being executed, 4 or 2 (00_scope.md rule R36). Every form reads all its operands from the
state the instruction starts in before it writes (rule R33). -/

namespace Sys2Proof.Machine

/-! ### Widths (rule R32) -/

/-- `sext_N(v)`: the low N bits, bit N-1 copied upwards. -/
def sext (n : Nat) (v : Word) : Word := (v.setWidth n).signExtend 64

/-- `zext_N(v)`: the low N bits, zeros above. -/
def zext (n : Nat) (v : Word) : Word := (v.setWidth n).setWidth 64

/-- The low 32 bits of a register. -/
def low32 (v : Word) : BitVec 32 := v.setWidth 32

/-! ### Forms that write an integer register -/

/-- Write rd, then outcome `Next`. -/
def writeX (rd : XReg) (v : Word) (len : Nat) (s : State) : Host.Outcome State Fault Refusal :=
  advance len (s.setX rd v)

/-- `x[rd] <- g(x[rs1], x[rs2])`. -/
def regReg (g : Word → Word → Word) (rd rs1 rs2 : XReg) (len : Nat) (s : State) : Host.Outcome State Fault Refusal :=
  writeX rd (g (s.getX rs1) (s.getX rs2)) len s

/-- `x[rd] <- g(x[rs1])`, the immediate being part of `g`. -/
def regImm (g : Word → Word) (rd rs1 : XReg) (len : Nat) (s : State) : Host.Outcome State Fault Refusal :=
  writeX rd (g (s.getX rs1)) len s

/-! ### Memory forms -/

/-- The effective address of a load or store: `x[rs1] + imm`, modulo 2^64 (43_loadstore.md rule R750). -/
def effAddr (s : State) (rs1 : XReg) (imm : Word) : Word := s.getX rs1 + imm

/-- `x[rd] <- ext(MemRead(ea, n))` (rules R751 to R757). -/
def loadX (n : Nat) (ext : Word → Word) (rd rs1 : XReg) (imm : Word) (len : Nat) (s : State) :
    Host.Outcome State Fault Refusal :=
  andThen (memRead s (effAddr s rs1 imm) n) fun v => writeX rd (ext v) len s

/-- `MemWrite(ea, n, v)`, then outcome `Next` (rules R758 to R761, R911, R913). -/
def storeWord (n : Nat) (v : Word) (rs1 : XReg) (imm : Word) (len : Nat) (s : State) :
    Host.Outcome State Fault Refusal :=
  andThen (memWrite s (effAddr s rs1 imm) n v) fun t => advance len t

/-- `MemWrite(ea, n, x[rs2])`. -/
def storeX (n : Nat) (rs1 rs2 : XReg) (imm : Word) (len : Nat) (s : State) : Host.Outcome State Fault Refusal :=
  storeWord n (s.getX rs2) rs1 imm len s

/-! ### Control transfer -/

/-- A conditional branch: `pc <- pc + imm` if the condition holds (44_control.md rules R802 to R807). -/
def branch (cond : Word → Word → Bool) (rs1 rs2 : XReg) (imm : Word) (len : Nat) (s : State) :
    Host.Outcome State Fault Refusal :=
  if cond (s.getX rs1) (s.getX rs2) then redirect (s.pc + imm) s else advance len s

/-- The link value: the address of the next instruction, `pc + len` (rules R800, R801). -/
def linkAddr (len : Nat) (s : State) : Word := s.pc + BitVec.ofNat 64 len

/-- `x[rd] <- pc + len; pc <- pc + imm` (rule R800). -/
def jumpOffset (rd : XReg) (imm : Word) (len : Nat) (s : State) : Host.Outcome State Fault Refusal :=
  redirect (s.pc + imm) (s.setX rd (linkAddr len s))

/-- The target of a register jump: `x[rs1] + imm` with bit 0 cleared, from the old rs1 (rule R801). -/
def jumpTarget (s : State) (rs1 : XReg) (imm : Word) : Word := effAddr s rs1 imm &&& ~~~1

/-- `t <- (x[rs1] + imm) and not 1; x[rd] <- pc + len; pc <- t` (rule R801). -/
def jumpRegister (rd rs1 : XReg) (imm : Word) (len : Nat) (s : State) : Host.Outcome State Fault Refusal :=
  redirect (jumpTarget s rs1 imm) (s.setX rd (linkAddr len s))

/-! ### Floating registers (10_state.md rule R105) -/

/-- The canonical single-precision NaN (46_float.md rule R902). -/
def cnanS : BitVec 32 := 0x7FC00000

/-- The canonical double-precision NaN (rule R902). -/
def cnanD : Word := 0x7FF8000000000000

/-- A single-precision pattern NaN-boxed: bits 63 to 32 all ones. -/
def boxS (v : BitVec 32) : Word := (0xFFFFFFFF : BitVec 32) ++ v

/-- The single-precision operand a floating register holds: its low half if it is NaN-boxed, else `CNAN_S`. -/
def unboxS (v : Word) : BitVec 32 :=
  if v.extractLsb' 32 32 = 0xFFFFFFFF then low32 v else cnanS

/-- Write a floating register, then outcome `Next`. -/
def writeF (rd : FReg) (v : Word) (len : Nat) (s : State) : Host.Outcome State Fault Refusal :=
  advance len (s.setF rd v)

/-- `f[rd] <- ext(MemRead(ea, n))` (46_float.md rules R910, R912). -/
def loadF (n : Nat) (ext : Word → Word) (rd : FReg) (rs1 : XReg) (imm : Word) (len : Nat) (s : State) :
    Host.Outcome State Fault Refusal :=
  andThen (memRead s (effAddr s rs1 imm) n) fun v => writeF rd (ext v) len s

/-- `MemWrite(ea, n, f[rs2])`: the low 8n bits, boxed or not (rules R911, R913). -/
def storeF (n : Nat) (rs1 : XReg) (rs2 : FReg) (imm : Word) (len : Nat) (s : State) :
    Host.Outcome State Fault Refusal :=
  storeWord n (s.getF rs2) rs1 imm len s

end Sys2Proof.Machine
end

