-- ==== Sys2Proof/Machine/Atomic.lean ====
section
/-! DEFINITION. The atomic instructions (48_atomic.md): gated on `IMPLEMENTED_ATOMICS` and on natural alignment, then read,
reservation and write in the order of rule R1053. A failing check writes nothing. aq and rl are ignored (rule R1052). -/

namespace Sys2Proof.Machine

/-! ### The shared forms -/

/-- Checks 1 and 2 of rule R1053: membership in `IMPLEMENTED_ATOMICS` and natural alignment, else `Unimplemented`
(rules R1050, R1054). -/
def gated (op : AtomicOp) (i : Instr) (ea : Word) (n : Nat) (s : State) (run : Host.Outcome State Fault Refusal) :
    Host.Outcome State Fault Refusal :=
  if op ∈ s.cfg.implementedAtomics ∧ ea.toNat % n = 0 then run else unimplemented i

/-- The number of bytes of a reservation's width. -/
def ResvWidth.bytes (w : ResvWidth) : Nat :=
  match w with
  | .w4 => 4
  | .w8 => 8

/-- `LR` (rules R1060, R1071): read, write rd, set the reservation. -/
def loadReserved (op : AtomicOp) (i : Instr) (w : ResvWidth) (ext : Word → Word) (rd rs1 : XReg) (s : State) :
    Host.Outcome State Fault Refusal :=
  gated op i (s.getX rs1) w.bytes s <|
    andThen (memRead s (s.getX rs1) w.bytes) fun t =>
      writeX rd (ext t) 4 { s with resv := some (s.getX rs1, w) }

/-- `SC` (rules R1061, R1072): it succeeds exactly when the reservation is this address and width (rule R1051), and
clears it either way; a failing SC touches no memory. -/
def storeConditional (op : AtomicOp) (i : Instr) (w : ResvWidth) (rd rs1 rs2 : XReg) (s : State) :
    Host.Outcome State Fault Refusal :=
  gated op i (s.getX rs1) w.bytes s <|
    if s.resv = some (s.getX rs1, w) then
      andThen (memWrite s (s.getX rs1) w.bytes (s.getX rs2)) fun t => writeX rd 0 4 { t with resv := none }
    else writeX rd 1 4 { s with resv := none }

/-- An AMO (rule R1055): read, compute, write, and rd gets the value memory held before. -/
def amo (op : AtomicOp) (i : Instr) (w : ResvWidth) (ext : Word → Word) (g : Word → Word → Word)
    (rd rs1 rs2 : XReg) (s : State) : Host.Outcome State Fault Refusal :=
  gated op i (s.getX rs1) w.bytes s <|
    andThen (memRead s (s.getX rs1) w.bytes) fun t =>
      andThen (memWrite s (s.getX rs1) w.bytes (g t (s.getX rs2))) fun u => writeX rd (ext t) 4 u

/-! ### The operations, on 32-bit or 64-bit values -/

/-- A swap: the new value is the source value. -/
def amoSwap {n : Nat} (_t b : BitVec n) : BitVec n := b

/-- Signed minimum. -/
def amoMin {n : Nat} (t b : BitVec n) : BitVec n := if t.toInt < b.toInt then t else b

/-- Signed maximum. -/
def amoMax {n : Nat} (t b : BitVec n) : BitVec n := if t.toInt > b.toInt then t else b

/-- Unsigned minimum. -/
def amoMinu {n : Nat} (t b : BitVec n) : BitVec n := if t.toNat < b.toNat then t else b

/-- Unsigned maximum. -/
def amoMaxu {n : Nat} (t b : BitVec n) : BitVec n := if t.toNat > b.toNat then t else b

/-- A word operation on the low 32 bits of the memory value and of rs2 (rule R1055). -/
def onWords (g : BitVec 32 → BitVec 32 → BitVec 32) (t b : Word) : Word := (g (low32 t) (low32 b)).setWidth 64

/-! ### Word forms -/

/-- `LR.W` (rule R1060). -/
def execLrW (rd rs1 : XReg) (aq rl : BitVec 1) (s : State) : Host.Outcome State Fault Refusal :=
  loadReserved .lrW (.lrW rd rs1 aq rl) .w4 (sext 32) rd rs1 s

/-- `SC.W` (rule R1061). -/
def execScW (rd rs1 rs2 : XReg) (aq rl : BitVec 1) (s : State) : Host.Outcome State Fault Refusal :=
  storeConditional .scW (.scW rd rs1 rs2 aq rl) .w4 rd rs1 rs2 s

/-- `AMOSWAP.W` (rule R1062). -/
def execAmoswapW (rd rs1 rs2 : XReg) (aq rl : BitVec 1) (s : State) : Host.Outcome State Fault Refusal :=
  amo .amoswapW (.amoswapW rd rs1 rs2 aq rl) .w4 (sext 32) (onWords amoSwap) rd rs1 rs2 s

/-- `AMOADD.W` (rule R1063). -/
def execAmoaddW (rd rs1 rs2 : XReg) (aq rl : BitVec 1) (s : State) : Host.Outcome State Fault Refusal :=
  amo .amoaddW (.amoaddW rd rs1 rs2 aq rl) .w4 (sext 32) (onWords (· + ·)) rd rs1 rs2 s

/-- `AMOXOR.W` (rule R1064). -/
def execAmoxorW (rd rs1 rs2 : XReg) (aq rl : BitVec 1) (s : State) : Host.Outcome State Fault Refusal :=
  amo .amoxorW (.amoxorW rd rs1 rs2 aq rl) .w4 (sext 32) (onWords (· ^^^ ·)) rd rs1 rs2 s

/-- `AMOAND.W` (rule R1065). -/
def execAmoandW (rd rs1 rs2 : XReg) (aq rl : BitVec 1) (s : State) : Host.Outcome State Fault Refusal :=
  amo .amoandW (.amoandW rd rs1 rs2 aq rl) .w4 (sext 32) (onWords (· &&& ·)) rd rs1 rs2 s

/-- `AMOOR.W` (rule R1066). -/
def execAmoorW (rd rs1 rs2 : XReg) (aq rl : BitVec 1) (s : State) : Host.Outcome State Fault Refusal :=
  amo .amoorW (.amoorW rd rs1 rs2 aq rl) .w4 (sext 32) (onWords (· ||| ·)) rd rs1 rs2 s

/-- `AMOMIN.W` (rule R1067). -/
def execAmominW (rd rs1 rs2 : XReg) (aq rl : BitVec 1) (s : State) : Host.Outcome State Fault Refusal :=
  amo .amominW (.amominW rd rs1 rs2 aq rl) .w4 (sext 32) (onWords amoMin) rd rs1 rs2 s

/-- `AMOMAX.W` (rule R1068). -/
def execAmomaxW (rd rs1 rs2 : XReg) (aq rl : BitVec 1) (s : State) : Host.Outcome State Fault Refusal :=
  amo .amomaxW (.amomaxW rd rs1 rs2 aq rl) .w4 (sext 32) (onWords amoMax) rd rs1 rs2 s

/-- `AMOMINU.W` (rule R1069). -/
def execAmominuW (rd rs1 rs2 : XReg) (aq rl : BitVec 1) (s : State) : Host.Outcome State Fault Refusal :=
  amo .amominuW (.amominuW rd rs1 rs2 aq rl) .w4 (sext 32) (onWords amoMinu) rd rs1 rs2 s

/-- `AMOMAXU.W` (rule R1070). -/
def execAmomaxuW (rd rs1 rs2 : XReg) (aq rl : BitVec 1) (s : State) : Host.Outcome State Fault Refusal :=
  amo .amomaxuW (.amomaxuW rd rs1 rs2 aq rl) .w4 (sext 32) (onWords amoMaxu) rd rs1 rs2 s

/-! ### Doubleword forms -/

/-- `LR.D` (rule R1071). -/
def execLrD (rd rs1 : XReg) (aq rl : BitVec 1) (s : State) : Host.Outcome State Fault Refusal :=
  loadReserved .lrD (.lrD rd rs1 aq rl) .w8 id rd rs1 s

/-- `SC.D` (rule R1072). -/
def execScD (rd rs1 rs2 : XReg) (aq rl : BitVec 1) (s : State) : Host.Outcome State Fault Refusal :=
  storeConditional .scD (.scD rd rs1 rs2 aq rl) .w8 rd rs1 rs2 s

/-- `AMOSWAP.D` (rule R1073). -/
def execAmoswapD (rd rs1 rs2 : XReg) (aq rl : BitVec 1) (s : State) : Host.Outcome State Fault Refusal :=
  amo .amoswapD (.amoswapD rd rs1 rs2 aq rl) .w8 id amoSwap rd rs1 rs2 s

/-- `AMOADD.D` (rule R1074). -/
def execAmoaddD (rd rs1 rs2 : XReg) (aq rl : BitVec 1) (s : State) : Host.Outcome State Fault Refusal :=
  amo .amoaddD (.amoaddD rd rs1 rs2 aq rl) .w8 id (· + ·) rd rs1 rs2 s

/-- `AMOXOR.D` (rule R1075). -/
def execAmoxorD (rd rs1 rs2 : XReg) (aq rl : BitVec 1) (s : State) : Host.Outcome State Fault Refusal :=
  amo .amoxorD (.amoxorD rd rs1 rs2 aq rl) .w8 id (· ^^^ ·) rd rs1 rs2 s

/-- `AMOAND.D` (rule R1076). -/
def execAmoandD (rd rs1 rs2 : XReg) (aq rl : BitVec 1) (s : State) : Host.Outcome State Fault Refusal :=
  amo .amoandD (.amoandD rd rs1 rs2 aq rl) .w8 id (· &&& ·) rd rs1 rs2 s

/-- `AMOOR.D` (rule R1077). -/
def execAmoorD (rd rs1 rs2 : XReg) (aq rl : BitVec 1) (s : State) : Host.Outcome State Fault Refusal :=
  amo .amoorD (.amoorD rd rs1 rs2 aq rl) .w8 id (· ||| ·) rd rs1 rs2 s

/-- `AMOMIN.D` (rule R1078). -/
def execAmominD (rd rs1 rs2 : XReg) (aq rl : BitVec 1) (s : State) : Host.Outcome State Fault Refusal :=
  amo .amominD (.amominD rd rs1 rs2 aq rl) .w8 id amoMin rd rs1 rs2 s

/-- `AMOMAX.D` (rule R1079). -/
def execAmomaxD (rd rs1 rs2 : XReg) (aq rl : BitVec 1) (s : State) : Host.Outcome State Fault Refusal :=
  amo .amomaxD (.amomaxD rd rs1 rs2 aq rl) .w8 id amoMax rd rs1 rs2 s

/-- `AMOMINU.D` (rule R1080). -/
def execAmominuD (rd rs1 rs2 : XReg) (aq rl : BitVec 1) (s : State) : Host.Outcome State Fault Refusal :=
  amo .amominuD (.amominuD rd rs1 rs2 aq rl) .w8 id amoMinu rd rs1 rs2 s

/-- `AMOMAXU.D` (rule R1081). -/
def execAmomaxuD (rd rs1 rs2 : XReg) (aq rl : BitVec 1) (s : State) : Host.Outcome State Fault Refusal :=
  amo .amomaxuD (.amomaxuD rd rs1 rs2 aq rl) .w8 id amoMaxu rd rs1 rs2 s

end Sys2Proof.Machine
end

