-- ==== Sys2Proof/Machine/Control.lean ====
section
/-! DEFINITION. The control transfers (44_control.md). No target is checked: an unmapped or odd target shows at the next fetch
(rule R810). There are no delay slots. -/

namespace Sys2Proof.Machine

/-- `JAL` (rule R800). -/
def execJal (rd : XReg) (imm : Word) (s : State) : Host.Outcome State Fault Refusal := jumpOffset rd imm 4 s

/-- `JALR` (rule R801). -/
def execJalr (rd rs1 : XReg) (imm : Word) (s : State) : Host.Outcome State Fault Refusal :=
  jumpRegister rd rs1 imm 4 s

/-- `BEQ` (rule R802). -/
def execBeq (rs1 rs2 : XReg) (imm : Word) (s : State) : Host.Outcome State Fault Refusal :=
  branch condEq rs1 rs2 imm 4 s

/-- `BNE` (rule R803). -/
def execBne (rs1 rs2 : XReg) (imm : Word) (s : State) : Host.Outcome State Fault Refusal :=
  branch condNe rs1 rs2 imm 4 s

/-- `BLT` (rule R804). -/
def execBlt (rs1 rs2 : XReg) (imm : Word) (s : State) : Host.Outcome State Fault Refusal :=
  branch condLt rs1 rs2 imm 4 s

/-- `BGE` (rule R805). -/
def execBge (rs1 rs2 : XReg) (imm : Word) (s : State) : Host.Outcome State Fault Refusal :=
  branch condGe rs1 rs2 imm 4 s

/-- `BLTU` (rule R806). -/
def execBltu (rs1 rs2 : XReg) (imm : Word) (s : State) : Host.Outcome State Fault Refusal :=
  branch condLtu rs1 rs2 imm 4 s

/-- `BGEU` (rule R807). -/
def execBgeu (rs1 rs2 : XReg) (imm : Word) (s : State) : Host.Outcome State Fault Refusal :=
  branch condGeu rs1 rs2 imm 4 s

end Sys2Proof.Machine
end

