-- ==== Sys2Proof/Decode.lean ====
section
/-! DEFINITION. The decoder (30_encoding.md) and, after it, the encoder. The decoder is a pure function from a window of
bytes to a typed instruction and its length, total on any bytes; a word no row of the opcode table matches is
`Decoded.invalid`, which carries the raw bits (rules R300, R304, R345, R402). The encoder is written from the same
encoding tables. -/

namespace Sys2Proof

/-! ### Fields of a full instruction word (rules R305, R306, R315, R316) -/

/-- w[6:0]. -/
def opcodeOf (w : BitVec 32) : BitVec 7 := w.extractLsb' 0 7

/-- rd = w[11:7]. -/
def rdOf (w : BitVec 32) : BitVec 5 := w.extractLsb' 7 5

/-- funct3 (or rm) = w[14:12]. -/
def funct3Of (w : BitVec 32) : BitVec 3 := w.extractLsb' 12 3

/-- rs1 = w[19:15]. -/
def rs1Of (w : BitVec 32) : BitVec 5 := w.extractLsb' 15 5

/-- rs2 = w[24:20]; also the shift amount of the word shifts and the selector of OP-FP. -/
def rs2Of (w : BitVec 32) : BitVec 5 := w.extractLsb' 20 5

/-- funct7 = w[31:25]. -/
def funct7Of (w : BitVec 32) : BitVec 7 := w.extractLsb' 25 7

/-- rs3 (or funct5) = w[31:27]. -/
def funct5Of (w : BitVec 32) : BitVec 5 := w.extractLsb' 27 5

/-- funct2 = fmt = w[26:25] of an R4 word. -/
def funct2Of (w : BitVec 32) : BitVec 2 := w.extractLsb' 25 2

/-- aq = w[26]. -/
def aqOf (w : BitVec 32) : BitVec 1 := w.extractLsb' 26 1

/-- rl = w[25]. -/
def rlOf (w : BitVec 32) : BitVec 1 := w.extractLsb' 25 1

/-- funct6 = w[31:26] of a 64-bit shift. -/
def funct6Of (w : BitVec 32) : BitVec 6 := w.extractLsb' 26 6

/-- shamt = w[25:20] of a 64-bit shift. -/
def shamt6Of (w : BitVec 32) : BitVec 6 := w.extractLsb' 20 6

/-! ### Immediates of a full instruction word (rules R310 to R314) -/

/-- I-immediate: sext_12(w[31:20]) (rule R310). -/
def immI (w : BitVec 32) : Word := (w.extractLsb' 20 12).signExtend 64

/-- B-immediate: sext_13(w[31] ++ w[7] ++ w[30:25] ++ w[11:8] ++ 0) (rule R311). -/
def immB (w : BitVec 32) : Word :=
  (w.extractLsb' 31 1 ++ w.extractLsb' 7 1 ++ w.extractLsb' 25 6 ++ w.extractLsb' 8 4 ++ 0#1).signExtend 64

/-- J-immediate: sext_21(w[31] ++ w[19:12] ++ w[20] ++ w[30:21] ++ 0) (rule R312). -/
def immJ (w : BitVec 32) : Word :=
  (w.extractLsb' 31 1 ++ w.extractLsb' 12 8 ++ w.extractLsb' 20 1 ++ w.extractLsb' 21 10 ++ 0#1).signExtend 64

/-- S-immediate: sext_12(w[31:25] ++ w[11:7]) (rule R313). -/
def immS (w : BitVec 32) : Word := (w.extractLsb' 25 7 ++ w.extractLsb' 7 5).signExtend 64

/-- U-immediate: sext_32(w[31:12] ++ 0x000) (rule R314). -/
def immU (w : BitVec 32) : Word := (w.extractLsb' 12 20 ++ 0#12).signExtend 64

/-! ### The group decoders of the full instructions -/

/-- LOAD (rule R321). -/
def decodeLoad (w : BitVec 32) : Option Instr :=
  match funct3Of w with
  | 0b000#3 => some (.lb (rdOf w) (rs1Of w) (immI w))
  | 0b001#3 => some (.lh (rdOf w) (rs1Of w) (immI w))
  | 0b010#3 => some (.lw (rdOf w) (rs1Of w) (immI w))
  | 0b011#3 => some (.ld (rdOf w) (rs1Of w) (immI w))
  | 0b100#3 => some (.lbu (rdOf w) (rs1Of w) (immI w))
  | 0b101#3 => some (.lhu (rdOf w) (rs1Of w) (immI w))
  | 0b110#3 => some (.lwu (rdOf w) (rs1Of w) (immI w))
  | _ => none

/-- LOAD-FP (rule R322). -/
def decodeLoadFp (w : BitVec 32) : Option Instr :=
  match funct3Of w with
  | 0b010#3 => some (.flw (rdOf w) (rs1Of w) (immI w))
  | 0b011#3 => some (.fld (rdOf w) (rs1Of w) (immI w))
  | _ => none

/-- MISC-MEM (rule R323): `FENCE` with any fm, pred, succ, rs1 and rd; FENCE.I is refused (rule R344). -/
def decodeMiscMem (w : BitVec 32) : Option Instr :=
  match funct3Of w with
  | 0b000#3 => some (.fence (w.extractLsb' 28 4) (w.extractLsb' 24 4) (w.extractLsb' 20 4) (rs1Of w) (rdOf w))
  | _ => none

/-- OP-IMM (rule R324). -/
def decodeOpImm (w : BitVec 32) : Option Instr :=
  match funct3Of w with
  | 0b000#3 => some (.addi (rdOf w) (rs1Of w) (immI w))
  | 0b010#3 => some (.slti (rdOf w) (rs1Of w) (immI w))
  | 0b011#3 => some (.sltiu (rdOf w) (rs1Of w) (immI w))
  | 0b100#3 => some (.xori (rdOf w) (rs1Of w) (immI w))
  | 0b110#3 => some (.ori (rdOf w) (rs1Of w) (immI w))
  | 0b111#3 => some (.andi (rdOf w) (rs1Of w) (immI w))
  | 0b001#3 =>
    match funct6Of w with
    | 0b000000#6 => some (.slli (rdOf w) (rs1Of w) (shamt6Of w))
    | _ => none
  | 0b101#3 =>
    match funct6Of w with
    | 0b000000#6 => some (.srli (rdOf w) (rs1Of w) (shamt6Of w))
    | 0b010000#6 => some (.srai (rdOf w) (rs1Of w) (shamt6Of w))
    | _ => none
  | _ => none

/-- OP-IMM-32 (rule R326). -/
def decodeOpImm32 (w : BitVec 32) : Option Instr :=
  match funct3Of w with
  | 0b000#3 => some (.addiw (rdOf w) (rs1Of w) (immI w))
  | 0b001#3 =>
    match funct7Of w with
    | 0b0000000#7 => some (.slliw (rdOf w) (rs1Of w) (rs2Of w))
    | _ => none
  | 0b101#3 =>
    match funct7Of w with
    | 0b0000000#7 => some (.srliw (rdOf w) (rs1Of w) (rs2Of w))
    | 0b0100000#7 => some (.sraiw (rdOf w) (rs1Of w) (rs2Of w))
    | _ => none
  | _ => none

/-- STORE (rule R327). -/
def decodeStore (w : BitVec 32) : Option Instr :=
  match funct3Of w with
  | 0b000#3 => some (.sb (rs1Of w) (rs2Of w) (immS w))
  | 0b001#3 => some (.sh (rs1Of w) (rs2Of w) (immS w))
  | 0b010#3 => some (.sw (rs1Of w) (rs2Of w) (immS w))
  | 0b011#3 => some (.sd (rs1Of w) (rs2Of w) (immS w))
  | _ => none

/-- STORE-FP (rule R328). -/
def decodeStoreFp (w : BitVec 32) : Option Instr :=
  match funct3Of w with
  | 0b010#3 => some (.fsw (rs1Of w) (rs2Of w) (immS w))
  | 0b011#3 => some (.fsd (rs1Of w) (rs2Of w) (immS w))
  | _ => none

/-- AMO, word forms (rule R329). -/
def decodeAmoW (w : BitVec 32) : Option Instr :=
  match funct5Of w with
  | 0b00010#5 =>
    match rs2Of w with
    | 0b00000#5 => some (.lrW (rdOf w) (rs1Of w) (aqOf w) (rlOf w))
    | _ => none
  | 0b00011#5 => some (.scW (rdOf w) (rs1Of w) (rs2Of w) (aqOf w) (rlOf w))
  | 0b00001#5 => some (.amoswapW (rdOf w) (rs1Of w) (rs2Of w) (aqOf w) (rlOf w))
  | 0b00000#5 => some (.amoaddW (rdOf w) (rs1Of w) (rs2Of w) (aqOf w) (rlOf w))
  | 0b00100#5 => some (.amoxorW (rdOf w) (rs1Of w) (rs2Of w) (aqOf w) (rlOf w))
  | 0b01100#5 => some (.amoandW (rdOf w) (rs1Of w) (rs2Of w) (aqOf w) (rlOf w))
  | 0b01000#5 => some (.amoorW (rdOf w) (rs1Of w) (rs2Of w) (aqOf w) (rlOf w))
  | 0b10000#5 => some (.amominW (rdOf w) (rs1Of w) (rs2Of w) (aqOf w) (rlOf w))
  | 0b10100#5 => some (.amomaxW (rdOf w) (rs1Of w) (rs2Of w) (aqOf w) (rlOf w))
  | 0b11000#5 => some (.amominuW (rdOf w) (rs1Of w) (rs2Of w) (aqOf w) (rlOf w))
  | 0b11100#5 => some (.amomaxuW (rdOf w) (rs1Of w) (rs2Of w) (aqOf w) (rlOf w))
  | _ => none

/-- AMO, doubleword forms (rule R329). -/
def decodeAmoD (w : BitVec 32) : Option Instr :=
  match funct5Of w with
  | 0b00010#5 =>
    match rs2Of w with
    | 0b00000#5 => some (.lrD (rdOf w) (rs1Of w) (aqOf w) (rlOf w))
    | _ => none
  | 0b00011#5 => some (.scD (rdOf w) (rs1Of w) (rs2Of w) (aqOf w) (rlOf w))
  | 0b00001#5 => some (.amoswapD (rdOf w) (rs1Of w) (rs2Of w) (aqOf w) (rlOf w))
  | 0b00000#5 => some (.amoaddD (rdOf w) (rs1Of w) (rs2Of w) (aqOf w) (rlOf w))
  | 0b00100#5 => some (.amoxorD (rdOf w) (rs1Of w) (rs2Of w) (aqOf w) (rlOf w))
  | 0b01100#5 => some (.amoandD (rdOf w) (rs1Of w) (rs2Of w) (aqOf w) (rlOf w))
  | 0b01000#5 => some (.amoorD (rdOf w) (rs1Of w) (rs2Of w) (aqOf w) (rlOf w))
  | 0b10000#5 => some (.amominD (rdOf w) (rs1Of w) (rs2Of w) (aqOf w) (rlOf w))
  | 0b10100#5 => some (.amomaxD (rdOf w) (rs1Of w) (rs2Of w) (aqOf w) (rlOf w))
  | 0b11000#5 => some (.amominuD (rdOf w) (rs1Of w) (rs2Of w) (aqOf w) (rlOf w))
  | 0b11100#5 => some (.amomaxuD (rdOf w) (rs1Of w) (rs2Of w) (aqOf w) (rlOf w))
  | _ => none

/-- AMO (rule R329): funct3 selects the width. -/
def decodeAmo (w : BitVec 32) : Option Instr :=
  match funct3Of w with
  | 0b010#3 => decodeAmoW w
  | 0b011#3 => decodeAmoD w
  | _ => none

/-- OP (rule R330). -/
def decodeOp (w : BitVec 32) : Option Instr :=
  match funct7Of w with
  | 0b0000000#7 =>
    match funct3Of w with
    | 0b000#3 => some (.add (rdOf w) (rs1Of w) (rs2Of w))
    | 0b001#3 => some (.sll (rdOf w) (rs1Of w) (rs2Of w))
    | 0b010#3 => some (.slt (rdOf w) (rs1Of w) (rs2Of w))
    | 0b011#3 => some (.sltu (rdOf w) (rs1Of w) (rs2Of w))
    | 0b100#3 => some (.xor (rdOf w) (rs1Of w) (rs2Of w))
    | 0b101#3 => some (.srl (rdOf w) (rs1Of w) (rs2Of w))
    | 0b110#3 => some (.or (rdOf w) (rs1Of w) (rs2Of w))
    | 0b111#3 => some (.and (rdOf w) (rs1Of w) (rs2Of w))
    | _ => none
  | 0b0100000#7 =>
    match funct3Of w with
    | 0b000#3 => some (.sub (rdOf w) (rs1Of w) (rs2Of w))
    | 0b101#3 => some (.sra (rdOf w) (rs1Of w) (rs2Of w))
    | _ => none
  | 0b0000001#7 =>
    match funct3Of w with
    | 0b000#3 => some (.mul (rdOf w) (rs1Of w) (rs2Of w))
    | 0b001#3 => some (.mulh (rdOf w) (rs1Of w) (rs2Of w))
    | 0b010#3 => some (.mulhsu (rdOf w) (rs1Of w) (rs2Of w))
    | 0b011#3 => some (.mulhu (rdOf w) (rs1Of w) (rs2Of w))
    | 0b100#3 => some (.div (rdOf w) (rs1Of w) (rs2Of w))
    | 0b101#3 => some (.divu (rdOf w) (rs1Of w) (rs2Of w))
    | 0b110#3 => some (.rem (rdOf w) (rs1Of w) (rs2Of w))
    | 0b111#3 => some (.remu (rdOf w) (rs1Of w) (rs2Of w))
    | _ => none
  | _ => none

/-- OP-32 (rule R332). -/
def decodeOp32 (w : BitVec 32) : Option Instr :=
  match funct7Of w with
  | 0b0000000#7 =>
    match funct3Of w with
    | 0b000#3 => some (.addw (rdOf w) (rs1Of w) (rs2Of w))
    | 0b001#3 => some (.sllw (rdOf w) (rs1Of w) (rs2Of w))
    | 0b101#3 => some (.srlw (rdOf w) (rs1Of w) (rs2Of w))
    | _ => none
  | 0b0100000#7 =>
    match funct3Of w with
    | 0b000#3 => some (.subw (rdOf w) (rs1Of w) (rs2Of w))
    | 0b101#3 => some (.sraw (rdOf w) (rs1Of w) (rs2Of w))
    | _ => none
  | 0b0000001#7 =>
    match funct3Of w with
    | 0b000#3 => some (.mulw (rdOf w) (rs1Of w) (rs2Of w))
    | 0b100#3 => some (.divw (rdOf w) (rs1Of w) (rs2Of w))
    | 0b101#3 => some (.divuw (rdOf w) (rs1Of w) (rs2Of w))
    | 0b110#3 => some (.remw (rdOf w) (rs1Of w) (rs2Of w))
    | 0b111#3 => some (.remuw (rdOf w) (rs1Of w) (rs2Of w))
    | _ => none
  | _ => none

/-- MADD (rule R333): fmt 10 and 11 are refused (rule R343). -/
def decodeMadd (w : BitVec 32) : Option Instr :=
  match funct2Of w with
  | 0b00#2 => some (.fmaddS (rdOf w) (rs1Of w) (rs2Of w) (funct5Of w) (funct3Of w))
  | 0b01#2 => some (.fmaddD (rdOf w) (rs1Of w) (rs2Of w) (funct5Of w) (funct3Of w))
  | _ => none

/-- MSUB (rule R333). -/
def decodeMsub (w : BitVec 32) : Option Instr :=
  match funct2Of w with
  | 0b00#2 => some (.fmsubS (rdOf w) (rs1Of w) (rs2Of w) (funct5Of w) (funct3Of w))
  | 0b01#2 => some (.fmsubD (rdOf w) (rs1Of w) (rs2Of w) (funct5Of w) (funct3Of w))
  | _ => none

/-- NMSUB (rule R333). -/
def decodeNmsub (w : BitVec 32) : Option Instr :=
  match funct2Of w with
  | 0b00#2 => some (.fnmsubS (rdOf w) (rs1Of w) (rs2Of w) (funct5Of w) (funct3Of w))
  | 0b01#2 => some (.fnmsubD (rdOf w) (rs1Of w) (rs2Of w) (funct5Of w) (funct3Of w))
  | _ => none

/-- NMADD (rule R333). -/
def decodeNmadd (w : BitVec 32) : Option Instr :=
  match funct2Of w with
  | 0b00#2 => some (.fnmaddS (rdOf w) (rs1Of w) (rs2Of w) (funct5Of w) (funct3Of w))
  | 0b01#2 => some (.fnmaddD (rdOf w) (rs1Of w) (rs2Of w) (funct5Of w) (funct3Of w))
  | _ => none

/-- OP-FP (rules R334, R342): one line of R334's table per funct7. -/
def decodeOpFp (w : BitVec 32) : Option Instr :=
  match funct7Of w with
  | 0b0000000#7 => some (.faddS (rdOf w) (rs1Of w) (rs2Of w) (funct3Of w))
  | 0b0000001#7 => some (.faddD (rdOf w) (rs1Of w) (rs2Of w) (funct3Of w))
  | 0b0000100#7 => some (.fsubS (rdOf w) (rs1Of w) (rs2Of w) (funct3Of w))
  | 0b0000101#7 => some (.fsubD (rdOf w) (rs1Of w) (rs2Of w) (funct3Of w))
  | 0b0001000#7 => some (.fmulS (rdOf w) (rs1Of w) (rs2Of w) (funct3Of w))
  | 0b0001001#7 => some (.fmulD (rdOf w) (rs1Of w) (rs2Of w) (funct3Of w))
  | 0b0001100#7 => some (.fdivS (rdOf w) (rs1Of w) (rs2Of w) (funct3Of w))
  | 0b0001101#7 => some (.fdivD (rdOf w) (rs1Of w) (rs2Of w) (funct3Of w))
  | 0b0101100#7 =>
    match rs2Of w with
    | 0b00000#5 => some (.fsqrtS (rdOf w) (rs1Of w) (funct3Of w))
    | _ => none
  | 0b0101101#7 =>
    match rs2Of w with
    | 0b00000#5 => some (.fsqrtD (rdOf w) (rs1Of w) (funct3Of w))
    | _ => none
  | 0b0010000#7 =>
    match funct3Of w with
    | 0b000#3 => some (.fsgnjS (rdOf w) (rs1Of w) (rs2Of w))
    | 0b001#3 => some (.fsgnjnS (rdOf w) (rs1Of w) (rs2Of w))
    | 0b010#3 => some (.fsgnjxS (rdOf w) (rs1Of w) (rs2Of w))
    | _ => none
  | 0b0010001#7 =>
    match funct3Of w with
    | 0b000#3 => some (.fsgnjD (rdOf w) (rs1Of w) (rs2Of w))
    | 0b001#3 => some (.fsgnjnD (rdOf w) (rs1Of w) (rs2Of w))
    | 0b010#3 => some (.fsgnjxD (rdOf w) (rs1Of w) (rs2Of w))
    | _ => none
  | 0b0010100#7 =>
    match funct3Of w with
    | 0b000#3 => some (.fminS (rdOf w) (rs1Of w) (rs2Of w))
    | 0b001#3 => some (.fmaxS (rdOf w) (rs1Of w) (rs2Of w))
    | _ => none
  | 0b0010101#7 =>
    match funct3Of w with
    | 0b000#3 => some (.fminD (rdOf w) (rs1Of w) (rs2Of w))
    | 0b001#3 => some (.fmaxD (rdOf w) (rs1Of w) (rs2Of w))
    | _ => none
  | 0b0100000#7 =>
    match rs2Of w with
    | 0b00001#5 => some (.fcvtSD (rdOf w) (rs1Of w) (funct3Of w))
    | _ => none
  | 0b0100001#7 =>
    match rs2Of w with
    | 0b00000#5 => some (.fcvtDS (rdOf w) (rs1Of w) (funct3Of w))
    | _ => none
  | 0b1010000#7 =>
    match funct3Of w with
    | 0b010#3 => some (.feqS (rdOf w) (rs1Of w) (rs2Of w))
    | 0b001#3 => some (.fltS (rdOf w) (rs1Of w) (rs2Of w))
    | 0b000#3 => some (.fleS (rdOf w) (rs1Of w) (rs2Of w))
    | _ => none
  | 0b1010001#7 =>
    match funct3Of w with
    | 0b010#3 => some (.feqD (rdOf w) (rs1Of w) (rs2Of w))
    | 0b001#3 => some (.fltD (rdOf w) (rs1Of w) (rs2Of w))
    | 0b000#3 => some (.fleD (rdOf w) (rs1Of w) (rs2Of w))
    | _ => none
  | 0b1100000#7 =>
    match rs2Of w with
    | 0b00000#5 => some (.fcvtWS (rdOf w) (rs1Of w) (funct3Of w))
    | 0b00001#5 => some (.fcvtWUS (rdOf w) (rs1Of w) (funct3Of w))
    | 0b00010#5 => some (.fcvtLS (rdOf w) (rs1Of w) (funct3Of w))
    | 0b00011#5 => some (.fcvtLUS (rdOf w) (rs1Of w) (funct3Of w))
    | _ => none
  | 0b1100001#7 =>
    match rs2Of w with
    | 0b00000#5 => some (.fcvtWD (rdOf w) (rs1Of w) (funct3Of w))
    | 0b00001#5 => some (.fcvtWUD (rdOf w) (rs1Of w) (funct3Of w))
    | 0b00010#5 => some (.fcvtLD (rdOf w) (rs1Of w) (funct3Of w))
    | 0b00011#5 => some (.fcvtLUD (rdOf w) (rs1Of w) (funct3Of w))
    | _ => none
  | 0b1101000#7 =>
    match rs2Of w with
    | 0b00000#5 => some (.fcvtSW (rdOf w) (rs1Of w) (funct3Of w))
    | 0b00001#5 => some (.fcvtSWU (rdOf w) (rs1Of w) (funct3Of w))
    | 0b00010#5 => some (.fcvtSL (rdOf w) (rs1Of w) (funct3Of w))
    | 0b00011#5 => some (.fcvtSLU (rdOf w) (rs1Of w) (funct3Of w))
    | _ => none
  | 0b1101001#7 =>
    match rs2Of w with
    | 0b00000#5 => some (.fcvtDW (rdOf w) (rs1Of w) (funct3Of w))
    | 0b00001#5 => some (.fcvtDWU (rdOf w) (rs1Of w) (funct3Of w))
    | 0b00010#5 => some (.fcvtDL (rdOf w) (rs1Of w) (funct3Of w))
    | 0b00011#5 => some (.fcvtDLU (rdOf w) (rs1Of w) (funct3Of w))
    | _ => none
  | 0b1110000#7 =>
    match rs2Of w, funct3Of w with
    | 0b00000#5, 0b000#3 => some (.fmvXW (rdOf w) (rs1Of w))
    | 0b00000#5, 0b001#3 => some (.fclassS (rdOf w) (rs1Of w))
    | _, _ => none
  | 0b1110001#7 =>
    match rs2Of w, funct3Of w with
    | 0b00000#5, 0b000#3 => some (.fmvXD (rdOf w) (rs1Of w))
    | 0b00000#5, 0b001#3 => some (.fclassD (rdOf w) (rs1Of w))
    | _, _ => none
  | 0b1111000#7 =>
    match rs2Of w, funct3Of w with
    | 0b00000#5, 0b000#3 => some (.fmvWX (rdOf w) (rs1Of w))
    | _, _ => none
  | 0b1111001#7 =>
    match rs2Of w, funct3Of w with
    | 0b00000#5, 0b000#3 => some (.fmvDX (rdOf w) (rs1Of w))
    | _, _ => none
  | _ => none

/-- BRANCH (rule R335). -/
def decodeBranch (w : BitVec 32) : Option Instr :=
  match funct3Of w with
  | 0b000#3 => some (.beq (rs1Of w) (rs2Of w) (immB w))
  | 0b001#3 => some (.bne (rs1Of w) (rs2Of w) (immB w))
  | 0b100#3 => some (.blt (rs1Of w) (rs2Of w) (immB w))
  | 0b101#3 => some (.bge (rs1Of w) (rs2Of w) (immB w))
  | 0b110#3 => some (.bltu (rs1Of w) (rs2Of w) (immB w))
  | 0b111#3 => some (.bgeu (rs1Of w) (rs2Of w) (immB w))
  | _ => none

/-- JALR (rule R336). -/
def decodeJalr (w : BitVec 32) : Option Instr :=
  match funct3Of w with
  | 0b000#3 => some (.jalr (rdOf w) (rs1Of w) (immI w))
  | _ => none

/-- SYSTEM (rules R338, R341): exactly two words decode. -/
def decodeSystem (w : BitVec 32) : Option Instr :=
  match w with
  | 0x00000073#32 => some .ecall
  | 0x00100073#32 => some .ebreak
  | _ => none

/-- decode32 (rules R304, R320, R340): dispatch on the major opcode. `none` is `Invalid`. -/
def decode32 (w : BitVec 32) : Option Instr :=
  match opcodeOf w with
  | 0x03#7 => decodeLoad w
  | 0x07#7 => decodeLoadFp w
  | 0x0F#7 => decodeMiscMem w
  | 0x13#7 => decodeOpImm w
  | 0x17#7 => some (.auipc (rdOf w) (immU w))
  | 0x1B#7 => decodeOpImm32 w
  | 0x23#7 => decodeStore w
  | 0x27#7 => decodeStoreFp w
  | 0x2F#7 => decodeAmo w
  | 0x33#7 => decodeOp w
  | 0x37#7 => some (.lui (rdOf w) (immU w))
  | 0x3B#7 => decodeOp32 w
  | 0x43#7 => decodeMadd w
  | 0x47#7 => decodeMsub w
  | 0x4B#7 => decodeNmsub w
  | 0x4F#7 => decodeNmadd w
  | 0x53#7 => decodeOpFp w
  | 0x63#7 => decodeBranch w
  | 0x67#7 => decodeJalr w
  | 0x6F#7 => some (.jal (rdOf w) (immJ w))
  | 0x73#7 => decodeSystem w
  | _ => none

/-! ### Compressed instructions (rules R400 to R451) -/

/-- A 3-bit register field r' denotes register r' + 8 (rule R400). -/
def cReg (r : BitVec 3) : BitVec 5 := 0b01#2 ++ r

/-- rd or rs1 = w[11:7] of the CR and CI formats (rule R401). -/
def cRd (w : BitVec 16) : BitVec 5 := w.extractLsb' 7 5

/-- rs2 = w[6:2] of the CR and CSS formats. -/
def cRs2 (w : BitVec 16) : BitVec 5 := w.extractLsb' 2 5

/-- rs1' (or rd') = w[9:7] + 8. -/
def cRs1' (w : BitVec 16) : BitVec 5 := cReg (w.extractLsb' 7 3)

/-- rd' or rs2' = w[4:2] + 8. -/
def cRs2' (w : BitVec 16) : BitVec 5 := cReg (w.extractLsb' 2 3)

/-- sext_6(w[12] ++ w[6:2]) (rules R420 to R422, R427). -/
def cImm6 (w : BitVec 16) : Word := (w.extractLsb' 12 1 ++ w.extractLsb' 2 5).signExtend 64

/-- shamt = w[12] ++ w[6:2] (rules R425, R426, R440). -/
def cShamt (w : BitVec 16) : BitVec 6 := w.extractLsb' 12 1 ++ w.extractLsb' 2 5

/-- nzuimm of C.ADDI4SPN: zext(w[10:7] ++ w[12:11] ++ w[5] ++ w[6] ++ 00) (rule R410). -/
def cImm4spn (w : BitVec 16) : Word :=
  (w.extractLsb' 7 4 ++ w.extractLsb' 11 2 ++ w.extractLsb' 5 1 ++ w.extractLsb' 6 1 ++ 0#2).setWidth 64

/-- uimm of C.LW and C.SW: zext(w[5] ++ w[12:10] ++ w[6] ++ 00) (rule R412). -/
def cImmW (w : BitVec 16) : Word :=
  (w.extractLsb' 5 1 ++ w.extractLsb' 10 3 ++ w.extractLsb' 6 1 ++ 0#2).setWidth 64

/-- uimm of C.LD, C.SD, C.FLD and C.FSD: zext(w[6:5] ++ w[12:10] ++ 000) (rule R411). -/
def cImmD (w : BitVec 16) : Word := (w.extractLsb' 5 2 ++ w.extractLsb' 10 3 ++ 0#3).setWidth 64

/-- nzimm of C.ADDI16SP: sext_10(w[12] ++ w[4:3] ++ w[5] ++ w[2] ++ w[6] ++ 0000) (rule R423). -/
def cImm16sp (w : BitVec 16) : Word :=
  (w.extractLsb' 12 1 ++ w.extractLsb' 3 2 ++ w.extractLsb' 5 1 ++ w.extractLsb' 2 1 ++ w.extractLsb' 6 1
    ++ 0#4).signExtend 64

/-- nzimm of C.LUI: sext_18(w[12] ++ w[6:2] ++ 0x000) (rule R424). -/
def cImmLui (w : BitVec 16) : Word := (w.extractLsb' 12 1 ++ w.extractLsb' 2 5 ++ 0#12).signExtend 64

/-- The C.J offset: sext_12(w[12] ++ w[8] ++ w[10:9] ++ w[6] ++ w[7] ++ w[2] ++ w[11] ++ w[5:3] ++ 0) (rule R435). -/
def cImmJ (w : BitVec 16) : Word :=
  (w.extractLsb' 12 1 ++ w.extractLsb' 8 1 ++ w.extractLsb' 9 2 ++ w.extractLsb' 6 1 ++ w.extractLsb' 7 1
    ++ w.extractLsb' 2 1 ++ w.extractLsb' 11 1 ++ w.extractLsb' 3 3 ++ 0#1).signExtend 64

/-- The C.BEQZ offset: sext_9(w[12] ++ w[6:5] ++ w[2] ++ w[11:10] ++ w[4:3] ++ 0) (rule R436). -/
def cImmB (w : BitVec 16) : Word :=
  (w.extractLsb' 12 1 ++ w.extractLsb' 5 2 ++ w.extractLsb' 2 1 ++ w.extractLsb' 10 2 ++ w.extractLsb' 3 2
    ++ 0#1).signExtend 64

/-- uimm of C.FLDSP and C.LDSP: zext(w[4:2] ++ w[12] ++ w[6:5] ++ 000) (rule R441). -/
def cImmLdsp (w : BitVec 16) : Word :=
  (w.extractLsb' 2 3 ++ w.extractLsb' 12 1 ++ w.extractLsb' 5 2 ++ 0#3).setWidth 64

/-- uimm of C.LWSP: zext(w[3:2] ++ w[12] ++ w[6:4] ++ 00) (rule R442). -/
def cImmLwsp (w : BitVec 16) : Word :=
  (w.extractLsb' 2 2 ++ w.extractLsb' 12 1 ++ w.extractLsb' 4 3 ++ 0#2).setWidth 64

/-- uimm of C.FSDSP and C.SDSP: zext(w[9:7] ++ w[12:10] ++ 000) (rule R449). -/
def cImmSdsp (w : BitVec 16) : Word := (w.extractLsb' 7 3 ++ w.extractLsb' 10 3 ++ 0#3).setWidth 64

/-- uimm of C.SWSP: zext(w[8:7] ++ w[12:9] ++ 00) (rule R450). -/
def cImmSwsp (w : BitVec 16) : Word := (w.extractLsb' 7 2 ++ w.extractLsb' 9 4 ++ 0#2).setWidth 64

/-- Quadrant 0 (rules R410 to R417). -/
def decodeQ0 (w : BitVec 16) : Option Instr :=
  match w.extractLsb' 13 3 with
  | 0b000#3 => if cImm4spn w = 0 then none else some (.cAddi4spn (cRs2' w) (cImm4spn w))
  | 0b001#3 => some (.cFld (cRs2' w) (cRs1' w) (cImmD w))
  | 0b010#3 => some (.cLw (cRs2' w) (cRs1' w) (cImmW w))
  | 0b011#3 => some (.cLd (cRs2' w) (cRs1' w) (cImmD w))
  | 0b101#3 => some (.cFsd (cRs1' w) (cRs2' w) (cImmD w))
  | 0b110#3 => some (.cSw (cRs1' w) (cRs2' w) (cImmW w))
  | 0b111#3 => some (.cSd (cRs1' w) (cRs2' w) (cImmD w))
  | _ => none

/-- The arithmetic group of quadrant 1, w[15:13] = 100 (rules R425 to R434). -/
def decodeCArith (w : BitVec 16) : Option Instr :=
  match w.extractLsb' 10 2 with
  | 0b00#2 => some (.cSrli (cRs1' w) (cShamt w))
  | 0b01#2 => some (.cSrai (cRs1' w) (cShamt w))
  | 0b10#2 => some (.cAndi (cRs1' w) (cImm6 w))
  | _ =>
    match w.extractLsb' 12 1, w.extractLsb' 5 2 with
    | 0b0#1, 0b00#2 => some (.cSub (cRs1' w) (cRs2' w))
    | 0b0#1, 0b01#2 => some (.cXor (cRs1' w) (cRs2' w))
    | 0b0#1, 0b10#2 => some (.cOr (cRs1' w) (cRs2' w))
    | 0b0#1, 0b11#2 => some (.cAnd (cRs1' w) (cRs2' w))
    | 0b1#1, 0b00#2 => some (.cSubw (cRs1' w) (cRs2' w))
    | 0b1#1, 0b01#2 => some (.cAddw (cRs1' w) (cRs2' w))
    | _, _ => none

/-- Quadrant 1 (rules R420 to R437). -/
def decodeQ1 (w : BitVec 16) : Option Instr :=
  match w.extractLsb' 13 3 with
  | 0b000#3 => if cRd w = 0 ∧ cImm6 w = 0 then some .cNop else some (.cAddi (cRd w) (cImm6 w))
  | 0b001#3 => if cRd w = 0 then none else some (.cAddiw (cRd w) (cImm6 w))
  | 0b010#3 => some (.cLi (cRd w) (cImm6 w))
  | 0b011#3 =>
    if cRd w = 2 then
      if cImm16sp w = 0 then none else some (.cAddi16sp (cImm16sp w))
    else
      if cImmLui w = 0 then none else some (.cLui (cRd w) (cImmLui w))
  | 0b100#3 => decodeCArith w
  | 0b101#3 => some (.cJ (cImmJ w))
  | 0b110#3 => some (.cBeqz (cRs1' w) (cImmB w))
  | 0b111#3 => some (.cBnez (cRs1' w) (cImmB w))
  | _ => none

/-- The CR group of quadrant 2, w[15:13] = 100 (rules R444 to R448). -/
def decodeCR (w : BitVec 16) : Option Instr :=
  match w.extractLsb' 12 1 with
  | 0b0#1 =>
    if cRs2 w = 0 then
      if cRd w = 0 then none else some (.cJr (cRd w))
    else some (.cMv (cRd w) (cRs2 w))
  | _ =>
    if cRs2 w = 0 then
      if cRd w = 0 then some .cEbreak else some (.cJalr (cRd w))
    else some (.cAdd (cRd w) (cRs2 w))

/-- Quadrant 2 (rules R440 to R451). -/
def decodeQ2 (w : BitVec 16) : Option Instr :=
  match w.extractLsb' 13 3 with
  | 0b000#3 => some (.cSlli (cRd w) (cShamt w))
  | 0b001#3 => some (.cFldsp (cRd w) (cImmLdsp w))
  | 0b010#3 => if cRd w = 0 then none else some (.cLwsp (cRd w) (cImmLwsp w))
  | 0b011#3 => if cRd w = 0 then none else some (.cLdsp (cRd w) (cImmLdsp w))
  | 0b100#3 => decodeCR w
  | 0b101#3 => some (.cFsdsp (cRs2 w) (cImmSdsp w))
  | 0b110#3 => some (.cSwsp (cRs2 w) (cImmSwsp w))
  | 0b111#3 => some (.cSdsp (cRs2 w) (cImmSdsp w))
  | _ => none

/-- decode16 (rule R402): dispatch on the quadrant. `none` is `Invalid`. -/
def decode16 (w : BitVec 16) : Option Instr :=
  match w.extractLsb' 0 2 with
  | 0b00#2 => decodeQ0 w
  | 0b01#2 => decodeQ1 w
  | 0b10#2 => decodeQ2 w
  | _ => none

/-! ### The decoder (rules R300 to R303) -/

/-- What the decoder answers for a complete window: an instruction, or `Invalid` with the raw word zero-extended to
32 bits and the length (rules R301, R345, decision D37). -/
inductive Decoded where
  | instr (i : Instr)
  | invalid (raw : BitVec 32) (len : Nat)
deriving DecidableEq, Repr

/-- The length in bytes, from the two least-significant bits of the first byte (rule R302). -/
def lengthOf (b0 : Byte) : Nat := if b0.extractLsb' 0 2 = 0b11#2 then 4 else 2

/-- The 16-bit word of two bytes, least significant byte first (20_memory.md rule R220). -/
def half (b0 b1 : Byte) : BitVec 16 := b1 ++ b0

/-- The 32-bit word of four bytes, least significant byte first (20_memory.md rule R220). -/
def full (b0 b1 b2 b3 : Byte) : BitVec 32 := b3 ++ b2 ++ b1 ++ b0

/-- `decode32` with its refusal named. -/
def decodeFull (w : BitVec 32) : Decoded :=
  match decode32 w with
  | some i => .instr i
  | none => .invalid w 4

/-- `decode16` with its refusal named. -/
def decodeHalf (w : BitVec 16) : Decoded :=
  match decode16 w with
  | some i => .instr i
  | none => .invalid (w.setWidth 32) 2

/-- The row of the opcode table a window decodes to: as `decode` below, but that a compressed instruction keeps the
constructor of its own row, which carries its length (assumption log 3). -/
def decodeRow (window : List Byte) : Option (Decoded × Nat) :=
  match window with
  | [] => none
  | b0 :: rest =>
    if lengthOf b0 = 4 then
      match rest with
      | b1 :: b2 :: b3 :: _ => some (decodeFull (full b0 b1 b2 b3), 4)
      | _ => none
    else
      match rest with
      | b1 :: _ => some (decodeHalf (half b0 b1), 2)
      | [] => none

/-- The typed instruction of rule R301: a compressed form is its expansion (rules R400 to R451), every other instruction
is itself. -/
def expand (i : Instr) : Instr :=
  match i with
  | .cAddi4spn rd imm => .addi rd 2 imm
  | .cFld rd rs1 imm => .fld rd rs1 imm
  | .cLw rd rs1 imm => .lw rd rs1 imm
  | .cLd rd rs1 imm => .ld rd rs1 imm
  | .cFsd rs1 rs2 imm => .fsd rs1 rs2 imm
  | .cSw rs1 rs2 imm => .sw rs1 rs2 imm
  | .cSd rs1 rs2 imm => .sd rs1 rs2 imm
  | .cNop => .addi 0 0 0
  | .cAddi rd imm => .addi rd rd imm
  | .cAddiw rd imm => .addiw rd rd imm
  | .cLi rd imm => .addi rd 0 imm
  | .cAddi16sp imm => .addi 2 2 imm
  | .cLui rd imm => .lui rd imm
  | .cSrli rd shamt => .srli rd rd shamt
  | .cSrai rd shamt => .srai rd rd shamt
  | .cAndi rd imm => .andi rd rd imm
  | .cSub rd rs2 => .sub rd rd rs2
  | .cXor rd rs2 => .xor rd rd rs2
  | .cOr rd rs2 => .or rd rd rs2
  | .cAnd rd rs2 => .and rd rd rs2
  | .cSubw rd rs2 => .subw rd rd rs2
  | .cAddw rd rs2 => .addw rd rd rs2
  | .cJ imm => .jal 0 imm
  | .cBeqz rs1 imm => .beq rs1 0 imm
  | .cBnez rs1 imm => .bne rs1 0 imm
  | .cSlli rd shamt => .slli rd rd shamt
  | .cFldsp rd imm => .fld rd 2 imm
  | .cLwsp rd imm => .lw rd 2 imm
  | .cLdsp rd imm => .ld rd 2 imm
  | .cJr rs1 => .jalr 0 rs1 0
  | .cMv rd rs2 => .add rd 0 rs2
  | .cEbreak => .ebreak
  | .cJalr rs1 => .jalr 1 rs1 0
  | .cAdd rd rs2 => .add rd rd rs2
  | .cFsdsp rs2 imm => .fsd 2 rs2 imm
  | .cSwsp rs2 imm => .sw 2 rs2 imm
  | .cSdsp rs2 imm => .sd 2 rs2 imm
  | i => i

/-- What the decoder answers, with the typed instruction of rule R301 in the place of the row. -/
def typed (d : Decoded) : Decoded :=
  match d with
  | .instr i => .instr (expand i)
  | .invalid raw len => .invalid raw len

/-- `decode(window, avail)` (rules R300, R301): the typed instruction and the length. The window is the list of the bytes
present, so `avail` is its length. The answer is `none` exactly when too few bytes are present (decision D33). A
compressed instruction and its expansion are equal values (decision D32), told apart by the length alone. -/
def decode (window : List Byte) : Option (Decoded × Nat) :=
  match decodeRow window with
  | some (d, len) => some (typed d, len)
  | none => none

/-- The instruction the decoder reads from an instruction whose bits are `w`, bit 0 the least significant bit of its
first byte; the bits from `nbits` up are zero. `none` where the decoder refuses. -/
def decodeTableWord (nbits w : Nat) : Option Instr :=
  let v := w % 2 ^ nbits
  match decodeRow [BitVec.ofNat 8 v, BitVec.ofNat 8 (v / 2 ^ 8), BitVec.ofNat 8 (v / 2 ^ 16), BitVec.ofNat 8 (v / 2 ^ 24)] with
  | some (.instr i, _) => some i
  | _ => none

/-! ### The encoder: the formats (rules R305, R401) -/

/-- R format; also R-fp (rm in the place of funct3) and I-shift32 (shamt in the place of rs2). -/
def fmtR (funct7 : BitVec 7) (rs2 rs1 : BitVec 5) (funct3 : BitVec 3) (rd : BitVec 5) (op : BitVec 7) : BitVec 32 :=
  funct7 ++ rs2 ++ rs1 ++ funct3 ++ rd ++ op

/-- I format: w[31:20] = imm[11:0]. -/
def fmtI (imm : Word) (rs1 : BitVec 5) (funct3 : BitVec 3) (rd : BitVec 5) (op : BitVec 7) : BitVec 32 :=
  imm.extractLsb' 0 12 ++ rs1 ++ funct3 ++ rd ++ op

/-- S format: w[31:25] = imm[11:5], w[11:7] = imm[4:0]. -/
def fmtS (imm : Word) (rs2 rs1 : BitVec 5) (funct3 : BitVec 3) (op : BitVec 7) : BitVec 32 :=
  imm.extractLsb' 5 7 ++ rs2 ++ rs1 ++ funct3 ++ imm.extractLsb' 0 5 ++ op

/-- B format: w[31] = imm[12], w[30:25] = imm[10:5], w[11:8] = imm[4:1], w[7] = imm[11]. -/
def fmtB (imm : Word) (rs2 rs1 : BitVec 5) (funct3 : BitVec 3) (op : BitVec 7) : BitVec 32 :=
  imm.extractLsb' 12 1 ++ imm.extractLsb' 5 6 ++ rs2 ++ rs1 ++ funct3 ++ imm.extractLsb' 1 4 ++ imm.extractLsb' 11 1 ++ op

/-- U format: w[31:12] = imm[31:12]. -/
def fmtU (imm : Word) (rd : BitVec 5) (op : BitVec 7) : BitVec 32 := imm.extractLsb' 12 20 ++ rd ++ op

/-- J format: w[31] = imm[20], w[30:21] = imm[10:1], w[20] = imm[11], w[19:12] = imm[19:12]. -/
def fmtJ (imm : Word) (rd : BitVec 5) (op : BitVec 7) : BitVec 32 :=
  imm.extractLsb' 20 1 ++ imm.extractLsb' 1 10 ++ imm.extractLsb' 11 1 ++ imm.extractLsb' 12 8 ++ rd ++ op

/-- R4 format. -/
def fmtR4 (rs3 : BitVec 5) (funct2 : BitVec 2) (rs2 rs1 : BitVec 5) (rm : BitVec 3) (rd : BitVec 5) (op : BitVec 7) :
    BitVec 32 :=
  rs3 ++ funct2 ++ rs2 ++ rs1 ++ rm ++ rd ++ op

/-- I-shift64 format. -/
def fmtShift64 (funct6 shamt : BitVec 6) (rs1 : BitVec 5) (funct3 : BitVec 3) (rd : BitVec 5) (op : BitVec 7) :
    BitVec 32 :=
  funct6 ++ shamt ++ rs1 ++ funct3 ++ rd ++ op

/-- R-amo format. -/
def fmtAmo (funct5 : BitVec 5) (aq rl : BitVec 1) (rs2 rs1 : BitVec 5) (funct3 : BitVec 3) (rd : BitVec 5)
    (op : BitVec 7) : BitVec 32 :=
  funct5 ++ aq ++ rl ++ rs2 ++ rs1 ++ funct3 ++ rd ++ op

/-- I-fence format. -/
def fmtFence (fm pred succ : BitVec 4) (rs1 : BitVec 5) (funct3 : BitVec 3) (rd : BitVec 5) (op : BitVec 7) :
    BitVec 32 :=
  fm ++ pred ++ succ ++ rs1 ++ funct3 ++ rd ++ op

/-- CR format, quadrant 2. -/
def fmtCR (funct4 : BitVec 4) (r rs2 : BitVec 5) : BitVec 16 := funct4 ++ r ++ rs2 ++ 0b10#2

/-- CI format: the immediate's bits in w[12] and w[6:2]. -/
def fmtCI (funct3 : BitVec 3) (hi : BitVec 1) (r lo : BitVec 5) (op : BitVec 2) : BitVec 16 :=
  funct3 ++ hi ++ r ++ lo ++ op

/-- CSS format, quadrant 2: the immediate's bits in w[12:7]. -/
def fmtCSS (funct3 : BitVec 3) (imm : BitVec 6) (rs2 : BitVec 5) : BitVec 16 := funct3 ++ imm ++ rs2 ++ 0b10#2

/-- CIW format, quadrant 0: the immediate's bits in w[12:5]. -/
def fmtCIW (funct3 : BitVec 3) (imm : BitVec 8) (rd : BitVec 5) : BitVec 16 :=
  funct3 ++ imm ++ rd.extractLsb' 0 3 ++ 0b00#2

/-- CL and CS formats, quadrant 0: the immediate's bits in w[12:10] and w[6:5]; the last register in w[4:2]. -/
def fmtCL (funct3 : BitVec 3) (hi : BitVec 3) (rs1 : BitVec 5) (lo : BitVec 2) (r : BitVec 5) : BitVec 16 :=
  funct3 ++ hi ++ rs1.extractLsb' 0 3 ++ lo ++ r.extractLsb' 0 3 ++ 0b00#2

/-- CA format, quadrant 1. -/
def fmtCA (funct6 : BitVec 6) (rd : BitVec 5) (funct2 : BitVec 2) (rs2 : BitVec 5) : BitVec 16 :=
  funct6 ++ rd.extractLsb' 0 3 ++ funct2 ++ rs2.extractLsb' 0 3 ++ 0b01#2

/-- CB format, quadrant 1: bits w[12:10], the register in w[9:7], bits w[6:2]. -/
def fmtCB (funct3 : BitVec 3) (hi : BitVec 3) (r lo : BitVec 5) : BitVec 16 :=
  funct3 ++ hi ++ r.extractLsb' 0 3 ++ lo ++ 0b01#2

/-- CJ format, quadrant 1: bits w[12:2]. -/
def fmtCJ (funct3 : BitVec 3) (target : BitVec 11) : BitVec 16 := funct3 ++ target ++ 0b01#2

/-! ### The encoder -/

/-- An instruction's bits: a 16-bit or a 32-bit word (rule R302). -/
inductive Code where
  | half (w : BitVec 16)
  | full (w : BitVec 32)
deriving DecidableEq, Repr

/-- The encoding of a well-formed instruction, row by row of spec/opcode_table.json. -/
def encode (i : Instr) : Code :=
  match i with
  | .lui rd imm => .full (fmtU imm rd 0b0110111)
  | .auipc rd imm => .full (fmtU imm rd 0b0010111)
  | .jal rd imm => .full (fmtJ imm rd 0b1101111)
  | .jalr rd rs1 imm => .full (fmtI imm rs1 0b000 rd 0b1100111)
  | .beq rs1 rs2 imm => .full (fmtB imm rs2 rs1 0b000 0b1100011)
  | .bne rs1 rs2 imm => .full (fmtB imm rs2 rs1 0b001 0b1100011)
  | .blt rs1 rs2 imm => .full (fmtB imm rs2 rs1 0b100 0b1100011)
  | .bge rs1 rs2 imm => .full (fmtB imm rs2 rs1 0b101 0b1100011)
  | .bltu rs1 rs2 imm => .full (fmtB imm rs2 rs1 0b110 0b1100011)
  | .bgeu rs1 rs2 imm => .full (fmtB imm rs2 rs1 0b111 0b1100011)
  | .lb rd rs1 imm => .full (fmtI imm rs1 0b000 rd 0b0000011)
  | .lh rd rs1 imm => .full (fmtI imm rs1 0b001 rd 0b0000011)
  | .lw rd rs1 imm => .full (fmtI imm rs1 0b010 rd 0b0000011)
  | .ld rd rs1 imm => .full (fmtI imm rs1 0b011 rd 0b0000011)
  | .lbu rd rs1 imm => .full (fmtI imm rs1 0b100 rd 0b0000011)
  | .lhu rd rs1 imm => .full (fmtI imm rs1 0b101 rd 0b0000011)
  | .lwu rd rs1 imm => .full (fmtI imm rs1 0b110 rd 0b0000011)
  | .sb rs1 rs2 imm => .full (fmtS imm rs2 rs1 0b000 0b0100011)
  | .sh rs1 rs2 imm => .full (fmtS imm rs2 rs1 0b001 0b0100011)
  | .sw rs1 rs2 imm => .full (fmtS imm rs2 rs1 0b010 0b0100011)
  | .sd rs1 rs2 imm => .full (fmtS imm rs2 rs1 0b011 0b0100011)
  | .addi rd rs1 imm => .full (fmtI imm rs1 0b000 rd 0b0010011)
  | .slti rd rs1 imm => .full (fmtI imm rs1 0b010 rd 0b0010011)
  | .sltiu rd rs1 imm => .full (fmtI imm rs1 0b011 rd 0b0010011)
  | .xori rd rs1 imm => .full (fmtI imm rs1 0b100 rd 0b0010011)
  | .ori rd rs1 imm => .full (fmtI imm rs1 0b110 rd 0b0010011)
  | .andi rd rs1 imm => .full (fmtI imm rs1 0b111 rd 0b0010011)
  | .slli rd rs1 shamt => .full (fmtShift64 0b000000 shamt rs1 0b001 rd 0b0010011)
  | .srli rd rs1 shamt => .full (fmtShift64 0b000000 shamt rs1 0b101 rd 0b0010011)
  | .srai rd rs1 shamt => .full (fmtShift64 0b010000 shamt rs1 0b101 rd 0b0010011)
  | .add rd rs1 rs2 => .full (fmtR 0b0000000 rs2 rs1 0b000 rd 0b0110011)
  | .sub rd rs1 rs2 => .full (fmtR 0b0100000 rs2 rs1 0b000 rd 0b0110011)
  | .sll rd rs1 rs2 => .full (fmtR 0b0000000 rs2 rs1 0b001 rd 0b0110011)
  | .slt rd rs1 rs2 => .full (fmtR 0b0000000 rs2 rs1 0b010 rd 0b0110011)
  | .sltu rd rs1 rs2 => .full (fmtR 0b0000000 rs2 rs1 0b011 rd 0b0110011)
  | .xor rd rs1 rs2 => .full (fmtR 0b0000000 rs2 rs1 0b100 rd 0b0110011)
  | .srl rd rs1 rs2 => .full (fmtR 0b0000000 rs2 rs1 0b101 rd 0b0110011)
  | .sra rd rs1 rs2 => .full (fmtR 0b0100000 rs2 rs1 0b101 rd 0b0110011)
  | .or rd rs1 rs2 => .full (fmtR 0b0000000 rs2 rs1 0b110 rd 0b0110011)
  | .and rd rs1 rs2 => .full (fmtR 0b0000000 rs2 rs1 0b111 rd 0b0110011)
  | .fence fm pred succ rs1 rd => .full (fmtFence fm pred succ rs1 0b000 rd 0b0001111)
  | .ecall => .full 0x00000073
  | .ebreak => .full 0x00100073
  | .addiw rd rs1 imm => .full (fmtI imm rs1 0b000 rd 0b0011011)
  | .slliw rd rs1 shamt => .full (fmtR 0b0000000 shamt rs1 0b001 rd 0b0011011)
  | .srliw rd rs1 shamt => .full (fmtR 0b0000000 shamt rs1 0b101 rd 0b0011011)
  | .sraiw rd rs1 shamt => .full (fmtR 0b0100000 shamt rs1 0b101 rd 0b0011011)
  | .addw rd rs1 rs2 => .full (fmtR 0b0000000 rs2 rs1 0b000 rd 0b0111011)
  | .subw rd rs1 rs2 => .full (fmtR 0b0100000 rs2 rs1 0b000 rd 0b0111011)
  | .sllw rd rs1 rs2 => .full (fmtR 0b0000000 rs2 rs1 0b001 rd 0b0111011)
  | .srlw rd rs1 rs2 => .full (fmtR 0b0000000 rs2 rs1 0b101 rd 0b0111011)
  | .sraw rd rs1 rs2 => .full (fmtR 0b0100000 rs2 rs1 0b101 rd 0b0111011)
  | .mul rd rs1 rs2 => .full (fmtR 0b0000001 rs2 rs1 0b000 rd 0b0110011)
  | .mulh rd rs1 rs2 => .full (fmtR 0b0000001 rs2 rs1 0b001 rd 0b0110011)
  | .mulhsu rd rs1 rs2 => .full (fmtR 0b0000001 rs2 rs1 0b010 rd 0b0110011)
  | .mulhu rd rs1 rs2 => .full (fmtR 0b0000001 rs2 rs1 0b011 rd 0b0110011)
  | .div rd rs1 rs2 => .full (fmtR 0b0000001 rs2 rs1 0b100 rd 0b0110011)
  | .divu rd rs1 rs2 => .full (fmtR 0b0000001 rs2 rs1 0b101 rd 0b0110011)
  | .rem rd rs1 rs2 => .full (fmtR 0b0000001 rs2 rs1 0b110 rd 0b0110011)
  | .remu rd rs1 rs2 => .full (fmtR 0b0000001 rs2 rs1 0b111 rd 0b0110011)
  | .mulw rd rs1 rs2 => .full (fmtR 0b0000001 rs2 rs1 0b000 rd 0b0111011)
  | .divw rd rs1 rs2 => .full (fmtR 0b0000001 rs2 rs1 0b100 rd 0b0111011)
  | .divuw rd rs1 rs2 => .full (fmtR 0b0000001 rs2 rs1 0b101 rd 0b0111011)
  | .remw rd rs1 rs2 => .full (fmtR 0b0000001 rs2 rs1 0b110 rd 0b0111011)
  | .remuw rd rs1 rs2 => .full (fmtR 0b0000001 rs2 rs1 0b111 rd 0b0111011)
  | .lrW rd rs1 aq rl => .full (fmtAmo 0b00010 aq rl 0b00000 rs1 0b010 rd 0b0101111)
  | .scW rd rs1 rs2 aq rl => .full (fmtAmo 0b00011 aq rl rs2 rs1 0b010 rd 0b0101111)
  | .amoswapW rd rs1 rs2 aq rl => .full (fmtAmo 0b00001 aq rl rs2 rs1 0b010 rd 0b0101111)
  | .amoaddW rd rs1 rs2 aq rl => .full (fmtAmo 0b00000 aq rl rs2 rs1 0b010 rd 0b0101111)
  | .amoxorW rd rs1 rs2 aq rl => .full (fmtAmo 0b00100 aq rl rs2 rs1 0b010 rd 0b0101111)
  | .amoandW rd rs1 rs2 aq rl => .full (fmtAmo 0b01100 aq rl rs2 rs1 0b010 rd 0b0101111)
  | .amoorW rd rs1 rs2 aq rl => .full (fmtAmo 0b01000 aq rl rs2 rs1 0b010 rd 0b0101111)
  | .amominW rd rs1 rs2 aq rl => .full (fmtAmo 0b10000 aq rl rs2 rs1 0b010 rd 0b0101111)
  | .amomaxW rd rs1 rs2 aq rl => .full (fmtAmo 0b10100 aq rl rs2 rs1 0b010 rd 0b0101111)
  | .amominuW rd rs1 rs2 aq rl => .full (fmtAmo 0b11000 aq rl rs2 rs1 0b010 rd 0b0101111)
  | .amomaxuW rd rs1 rs2 aq rl => .full (fmtAmo 0b11100 aq rl rs2 rs1 0b010 rd 0b0101111)
  | .lrD rd rs1 aq rl => .full (fmtAmo 0b00010 aq rl 0b00000 rs1 0b011 rd 0b0101111)
  | .scD rd rs1 rs2 aq rl => .full (fmtAmo 0b00011 aq rl rs2 rs1 0b011 rd 0b0101111)
  | .amoswapD rd rs1 rs2 aq rl => .full (fmtAmo 0b00001 aq rl rs2 rs1 0b011 rd 0b0101111)
  | .amoaddD rd rs1 rs2 aq rl => .full (fmtAmo 0b00000 aq rl rs2 rs1 0b011 rd 0b0101111)
  | .amoxorD rd rs1 rs2 aq rl => .full (fmtAmo 0b00100 aq rl rs2 rs1 0b011 rd 0b0101111)
  | .amoandD rd rs1 rs2 aq rl => .full (fmtAmo 0b01100 aq rl rs2 rs1 0b011 rd 0b0101111)
  | .amoorD rd rs1 rs2 aq rl => .full (fmtAmo 0b01000 aq rl rs2 rs1 0b011 rd 0b0101111)
  | .amominD rd rs1 rs2 aq rl => .full (fmtAmo 0b10000 aq rl rs2 rs1 0b011 rd 0b0101111)
  | .amomaxD rd rs1 rs2 aq rl => .full (fmtAmo 0b10100 aq rl rs2 rs1 0b011 rd 0b0101111)
  | .amominuD rd rs1 rs2 aq rl => .full (fmtAmo 0b11000 aq rl rs2 rs1 0b011 rd 0b0101111)
  | .amomaxuD rd rs1 rs2 aq rl => .full (fmtAmo 0b11100 aq rl rs2 rs1 0b011 rd 0b0101111)
  | .flw rd rs1 imm => .full (fmtI imm rs1 0b010 rd 0b0000111)
  | .fsw rs1 rs2 imm => .full (fmtS imm rs2 rs1 0b010 0b0100111)
  | .fld rd rs1 imm => .full (fmtI imm rs1 0b011 rd 0b0000111)
  | .fsd rs1 rs2 imm => .full (fmtS imm rs2 rs1 0b011 0b0100111)
  | .fmaddS rd rs1 rs2 rs3 rm => .full (fmtR4 rs3 0b00 rs2 rs1 rm rd 0b1000011)
  | .fmsubS rd rs1 rs2 rs3 rm => .full (fmtR4 rs3 0b00 rs2 rs1 rm rd 0b1000111)
  | .fnmsubS rd rs1 rs2 rs3 rm => .full (fmtR4 rs3 0b00 rs2 rs1 rm rd 0b1001011)
  | .fnmaddS rd rs1 rs2 rs3 rm => .full (fmtR4 rs3 0b00 rs2 rs1 rm rd 0b1001111)
  | .fmaddD rd rs1 rs2 rs3 rm => .full (fmtR4 rs3 0b01 rs2 rs1 rm rd 0b1000011)
  | .fmsubD rd rs1 rs2 rs3 rm => .full (fmtR4 rs3 0b01 rs2 rs1 rm rd 0b1000111)
  | .fnmsubD rd rs1 rs2 rs3 rm => .full (fmtR4 rs3 0b01 rs2 rs1 rm rd 0b1001011)
  | .fnmaddD rd rs1 rs2 rs3 rm => .full (fmtR4 rs3 0b01 rs2 rs1 rm rd 0b1001111)
  | .faddS rd rs1 rs2 rm => .full (fmtR 0b0000000 rs2 rs1 rm rd 0b1010011)
  | .fsubS rd rs1 rs2 rm => .full (fmtR 0b0000100 rs2 rs1 rm rd 0b1010011)
  | .fmulS rd rs1 rs2 rm => .full (fmtR 0b0001000 rs2 rs1 rm rd 0b1010011)
  | .fdivS rd rs1 rs2 rm => .full (fmtR 0b0001100 rs2 rs1 rm rd 0b1010011)
  | .fsqrtS rd rs1 rm => .full (fmtR 0b0101100 0b00000 rs1 rm rd 0b1010011)
  | .fsgnjS rd rs1 rs2 => .full (fmtR 0b0010000 rs2 rs1 0b000 rd 0b1010011)
  | .fsgnjnS rd rs1 rs2 => .full (fmtR 0b0010000 rs2 rs1 0b001 rd 0b1010011)
  | .fsgnjxS rd rs1 rs2 => .full (fmtR 0b0010000 rs2 rs1 0b010 rd 0b1010011)
  | .fminS rd rs1 rs2 => .full (fmtR 0b0010100 rs2 rs1 0b000 rd 0b1010011)
  | .fmaxS rd rs1 rs2 => .full (fmtR 0b0010100 rs2 rs1 0b001 rd 0b1010011)
  | .fcvtWS rd rs1 rm => .full (fmtR 0b1100000 0b00000 rs1 rm rd 0b1010011)
  | .fcvtWUS rd rs1 rm => .full (fmtR 0b1100000 0b00001 rs1 rm rd 0b1010011)
  | .fcvtLS rd rs1 rm => .full (fmtR 0b1100000 0b00010 rs1 rm rd 0b1010011)
  | .fcvtLUS rd rs1 rm => .full (fmtR 0b1100000 0b00011 rs1 rm rd 0b1010011)
  | .fcvtSW rd rs1 rm => .full (fmtR 0b1101000 0b00000 rs1 rm rd 0b1010011)
  | .fcvtSWU rd rs1 rm => .full (fmtR 0b1101000 0b00001 rs1 rm rd 0b1010011)
  | .fcvtSL rd rs1 rm => .full (fmtR 0b1101000 0b00010 rs1 rm rd 0b1010011)
  | .fcvtSLU rd rs1 rm => .full (fmtR 0b1101000 0b00011 rs1 rm rd 0b1010011)
  | .feqS rd rs1 rs2 => .full (fmtR 0b1010000 rs2 rs1 0b010 rd 0b1010011)
  | .fltS rd rs1 rs2 => .full (fmtR 0b1010000 rs2 rs1 0b001 rd 0b1010011)
  | .fleS rd rs1 rs2 => .full (fmtR 0b1010000 rs2 rs1 0b000 rd 0b1010011)
  | .fclassS rd rs1 => .full (fmtR 0b1110000 0b00000 rs1 0b001 rd 0b1010011)
  | .fmvXW rd rs1 => .full (fmtR 0b1110000 0b00000 rs1 0b000 rd 0b1010011)
  | .fmvWX rd rs1 => .full (fmtR 0b1111000 0b00000 rs1 0b000 rd 0b1010011)
  | .faddD rd rs1 rs2 rm => .full (fmtR 0b0000001 rs2 rs1 rm rd 0b1010011)
  | .fsubD rd rs1 rs2 rm => .full (fmtR 0b0000101 rs2 rs1 rm rd 0b1010011)
  | .fmulD rd rs1 rs2 rm => .full (fmtR 0b0001001 rs2 rs1 rm rd 0b1010011)
  | .fdivD rd rs1 rs2 rm => .full (fmtR 0b0001101 rs2 rs1 rm rd 0b1010011)
  | .fsqrtD rd rs1 rm => .full (fmtR 0b0101101 0b00000 rs1 rm rd 0b1010011)
  | .fsgnjD rd rs1 rs2 => .full (fmtR 0b0010001 rs2 rs1 0b000 rd 0b1010011)
  | .fsgnjnD rd rs1 rs2 => .full (fmtR 0b0010001 rs2 rs1 0b001 rd 0b1010011)
  | .fsgnjxD rd rs1 rs2 => .full (fmtR 0b0010001 rs2 rs1 0b010 rd 0b1010011)
  | .fminD rd rs1 rs2 => .full (fmtR 0b0010101 rs2 rs1 0b000 rd 0b1010011)
  | .fmaxD rd rs1 rs2 => .full (fmtR 0b0010101 rs2 rs1 0b001 rd 0b1010011)
  | .fcvtWD rd rs1 rm => .full (fmtR 0b1100001 0b00000 rs1 rm rd 0b1010011)
  | .fcvtWUD rd rs1 rm => .full (fmtR 0b1100001 0b00001 rs1 rm rd 0b1010011)
  | .fcvtLD rd rs1 rm => .full (fmtR 0b1100001 0b00010 rs1 rm rd 0b1010011)
  | .fcvtLUD rd rs1 rm => .full (fmtR 0b1100001 0b00011 rs1 rm rd 0b1010011)
  | .fcvtDW rd rs1 rm => .full (fmtR 0b1101001 0b00000 rs1 rm rd 0b1010011)
  | .fcvtDWU rd rs1 rm => .full (fmtR 0b1101001 0b00001 rs1 rm rd 0b1010011)
  | .fcvtDL rd rs1 rm => .full (fmtR 0b1101001 0b00010 rs1 rm rd 0b1010011)
  | .fcvtDLU rd rs1 rm => .full (fmtR 0b1101001 0b00011 rs1 rm rd 0b1010011)
  | .feqD rd rs1 rs2 => .full (fmtR 0b1010001 rs2 rs1 0b010 rd 0b1010011)
  | .fltD rd rs1 rs2 => .full (fmtR 0b1010001 rs2 rs1 0b001 rd 0b1010011)
  | .fleD rd rs1 rs2 => .full (fmtR 0b1010001 rs2 rs1 0b000 rd 0b1010011)
  | .fclassD rd rs1 => .full (fmtR 0b1110001 0b00000 rs1 0b001 rd 0b1010011)
  | .fmvXD rd rs1 => .full (fmtR 0b1110001 0b00000 rs1 0b000 rd 0b1010011)
  | .fmvDX rd rs1 => .full (fmtR 0b1111001 0b00000 rs1 0b000 rd 0b1010011)
  | .fcvtSD rd rs1 rm => .full (fmtR 0b0100000 0b00001 rs1 rm rd 0b1010011)
  | .fcvtDS rd rs1 rm => .full (fmtR 0b0100001 0b00000 rs1 rm rd 0b1010011)
  | .cAddi4spn rd imm =>
    .half (fmtCIW 0b000 (imm.extractLsb' 4 2 ++ imm.extractLsb' 6 4 ++ imm.extractLsb' 2 1 ++ imm.extractLsb' 3 1) rd)
  | .cFld rd rs1 imm => .half (fmtCL 0b001 (imm.extractLsb' 3 3) rs1 (imm.extractLsb' 6 2) rd)
  | .cLw rd rs1 imm => .half (fmtCL 0b010 (imm.extractLsb' 3 3) rs1 (imm.extractLsb' 2 1 ++ imm.extractLsb' 6 1) rd)
  | .cLd rd rs1 imm => .half (fmtCL 0b011 (imm.extractLsb' 3 3) rs1 (imm.extractLsb' 6 2) rd)
  | .cFsd rs1 rs2 imm => .half (fmtCL 0b101 (imm.extractLsb' 3 3) rs1 (imm.extractLsb' 6 2) rs2)
  | .cSw rs1 rs2 imm => .half (fmtCL 0b110 (imm.extractLsb' 3 3) rs1 (imm.extractLsb' 2 1 ++ imm.extractLsb' 6 1) rs2)
  | .cSd rs1 rs2 imm => .half (fmtCL 0b111 (imm.extractLsb' 3 3) rs1 (imm.extractLsb' 6 2) rs2)
  | .cNop => .half 0x0001
  | .cAddi rd imm => .half (fmtCI 0b000 (imm.extractLsb' 5 1) rd (imm.extractLsb' 0 5) 0b01)
  | .cAddiw rd imm => .half (fmtCI 0b001 (imm.extractLsb' 5 1) rd (imm.extractLsb' 0 5) 0b01)
  | .cLi rd imm => .half (fmtCI 0b010 (imm.extractLsb' 5 1) rd (imm.extractLsb' 0 5) 0b01)
  | .cAddi16sp imm => .half (fmtCI 0b011 (imm.extractLsb' 9 1) 0b00010
      (imm.extractLsb' 4 1 ++ imm.extractLsb' 6 1 ++ imm.extractLsb' 7 2 ++ imm.extractLsb' 5 1) 0b01)
  | .cLui rd imm => .half (fmtCI 0b011 (imm.extractLsb' 17 1) rd (imm.extractLsb' 12 5) 0b01)
  | .cSrli rd shamt => .half (fmtCB 0b100 (shamt.extractLsb' 5 1 ++ 0b00#2) rd (shamt.extractLsb' 0 5))
  | .cSrai rd shamt => .half (fmtCB 0b100 (shamt.extractLsb' 5 1 ++ 0b01#2) rd (shamt.extractLsb' 0 5))
  | .cAndi rd imm => .half (fmtCB 0b100 (imm.extractLsb' 5 1 ++ 0b10#2) rd (imm.extractLsb' 0 5))
  | .cSub rd rs2 => .half (fmtCA 0b100011 rd 0b00 rs2)
  | .cXor rd rs2 => .half (fmtCA 0b100011 rd 0b01 rs2)
  | .cOr rd rs2 => .half (fmtCA 0b100011 rd 0b10 rs2)
  | .cAnd rd rs2 => .half (fmtCA 0b100011 rd 0b11 rs2)
  | .cSubw rd rs2 => .half (fmtCA 0b100111 rd 0b00 rs2)
  | .cAddw rd rs2 => .half (fmtCA 0b100111 rd 0b01 rs2)
  | .cJ imm =>
    .half (fmtCJ 0b101 (imm.extractLsb' 11 1 ++ imm.extractLsb' 4 1 ++ imm.extractLsb' 8 2 ++ imm.extractLsb' 10 1 ++
      imm.extractLsb' 6 1 ++ imm.extractLsb' 7 1 ++ imm.extractLsb' 1 3 ++ imm.extractLsb' 5 1))
  | .cBeqz rs1 imm => .half (fmtCB 0b110 (imm.extractLsb' 8 1 ++ imm.extractLsb' 3 2) rs1
      (imm.extractLsb' 6 2 ++ imm.extractLsb' 1 2 ++ imm.extractLsb' 5 1))
  | .cBnez rs1 imm => .half (fmtCB 0b111 (imm.extractLsb' 8 1 ++ imm.extractLsb' 3 2) rs1
      (imm.extractLsb' 6 2 ++ imm.extractLsb' 1 2 ++ imm.extractLsb' 5 1))
  | .cSlli rd shamt => .half (fmtCI 0b000 (shamt.extractLsb' 5 1) rd (shamt.extractLsb' 0 5) 0b10)
  | .cFldsp rd imm => .half (fmtCI 0b001 (imm.extractLsb' 5 1) rd (imm.extractLsb' 3 2 ++ imm.extractLsb' 6 3) 0b10)
  | .cLwsp rd imm => .half (fmtCI 0b010 (imm.extractLsb' 5 1) rd (imm.extractLsb' 2 3 ++ imm.extractLsb' 6 2) 0b10)
  | .cLdsp rd imm => .half (fmtCI 0b011 (imm.extractLsb' 5 1) rd (imm.extractLsb' 3 2 ++ imm.extractLsb' 6 3) 0b10)
  | .cJr rs1 => .half (fmtCR 0b1000 rs1 0)
  | .cMv rd rs2 => .half (fmtCR 0b1000 rd rs2)
  | .cEbreak => .half 0x9002
  | .cJalr rs1 => .half (fmtCR 0b1001 rs1 0)
  | .cAdd rd rs2 => .half (fmtCR 0b1001 rd rs2)
  | .cFsdsp rs2 imm => .half (fmtCSS 0b101 (imm.extractLsb' 3 3 ++ imm.extractLsb' 6 3) rs2)
  | .cSwsp rs2 imm => .half (fmtCSS 0b110 (imm.extractLsb' 2 4 ++ imm.extractLsb' 6 2) rs2)
  | .cSdsp rs2 imm => .half (fmtCSS 0b111 (imm.extractLsb' 3 3 ++ imm.extractLsb' 6 3) rs2)

/-- The word of the code, zero-extended to 32 bits. -/
def codeWord (c : Code) : BitVec 32 :=
  match c with
  | .half w => w.setWidth 32
  | .full w => w

/-- The length of the code in bytes. -/
def codeLen (c : Code) : Nat :=
  match c with
  | .half _ => 2
  | .full _ => 4

/-- The code's bytes in memory order, least significant byte first (20_memory.md rule R220). -/
def codeBytes (c : Code) : List Byte :=
  match c with
  | .half w => [w.extractLsb' 0 8, w.extractLsb' 8 8]
  | .full w => [w.extractLsb' 0 8, w.extractLsb' 8 8, w.extractLsb' 16 8, w.extractLsb' 24 8]

/-- The length in bytes of an instruction, 2 or 4. -/
def instrLen (i : Instr) : Nat := codeLen (encode i)

end Sys2Proof
end

