-- ==== Sys2Proof/Machine/Float.lean ====
section
/-! DEFINITION. The floating-point instructions (46_float.md): the ten that execute (rule R900) and the 52 that end the run with
`Unimplemented` (rule R939). There is no floating-point exception state (rule R903). -/

namespace Sys2Proof.Machine

/-! ### Rounding (30_encoding.md rule R317, 46_float.md rule R901) -/

/-- The five rounding directions. -/
inductive RoundMode where
  /-- To nearest, ties to even. -/
  | rne
  /-- Towards zero. -/
  | rtz
  /-- Towards minus infinity. -/
  | rdn
  /-- Towards plus infinity. -/
  | rup
  /-- To nearest, ties away from zero. -/
  | rmm
deriving DecidableEq, Repr

/-- The direction an rm field selects at execution: dyn (0b111) is RNE because the block has no frm; 0b101 and 0b110 are
reserved (rule R901). -/
def roundMode (rm : BitVec 3) : Option RoundMode :=
  match rm with
  | 0b000 => some .rne
  | 0b001 => some .rtz
  | 0b010 => some .rdn
  | 0b011 => some .rup
  | 0b100 => some .rmm
  | 0b111 => some .rne
  | _ => none

/-- Whether a magnitude with low part `r` out of `2^k` below an integer `q` rounds up to `q + 1` in a direction. -/
def roundsUp (mode : RoundMode) (neg : Bool) (q r k : Nat) : Bool :=
  match mode with
  | .rne => decide (2 ^ k < 2 * r) || (decide (2 * r = 2 ^ k) && decide (q % 2 = 1))
  | .rtz => false
  | .rdn => neg && decide (r ≠ 0)
  | .rup => !neg && decide (r ≠ 0)
  | .rmm => decide (2 ^ k ≤ 2 * r)

/-- `m / 2^k` rounded to an integer magnitude. -/
def roundScaled (mode : RoundMode) (neg : Bool) (m k : Nat) : Nat :=
  m / 2 ^ k + if roundsUp mode neg (m / 2 ^ k) (m % 2 ^ k) k then 1 else 0

/-- Run with the rounding direction of `rm`, or stop with `ReservedInstruction(raw, 4)` when it is reserved. `raw` is the
instruction's word (rule R901; assumption log 15). -/
def withRounding (i : Instr) (rm : BitVec 3) (run : RoundMode → Host.Outcome State Fault Refusal) :
    Host.Outcome State Fault Refusal :=
  match roundMode rm with
  | some mode => run mode
  | none => halt (.reservedInstruction (codeWord (encode i)) 4)

/-! ### Width conversions (rules R930, R931) -/

/-- Fields of a binary64 pattern: the exponent field. -/
def expD (d : Word) : Nat := (d.extractLsb' 52 11).toNat

/-- The fraction field of a binary64 pattern. -/
def fracD (d : Word) : Nat := (d.extractLsb' 0 52).toNat

/-- The sign bit of a binary64 pattern. -/
def signD (d : Word) : Bool := d.msb

/-- The exponent field of a binary32 pattern. -/
def expS (v : BitVec 32) : Nat := (v.extractLsb' 23 8).toNat

/-- The fraction field of a binary32 pattern. -/
def fracS (v : BitVec 32) : Nat := (v.extractLsb' 0 23).toNat

/-- The sign bit of a binary32 pattern. -/
def signS (v : BitVec 32) : Bool := v.msb

/-- A binary64 pattern is a NaN (rule R902). -/
def isNanD (d : Word) : Bool := decide (expD d = 2047) && decide (fracD d ≠ 0)

/-- A binary32 pattern is a NaN (rule R902). -/
def isNanS (v : BitVec 32) : Bool := decide (expS v = 255) && decide (fracS v ≠ 0)

/-- The magnitude bits of the binary32 result when the rounded magnitude exceeds the largest finite value (rule R930). -/
def overflowMagnitude (mode : RoundMode) (neg : Bool) : Nat :=
  match mode with
  | .rne => 0x7F800000
  | .rmm => 0x7F800000
  | .rtz => 0x7F7FFFFF
  | .rdn => if neg then 0x7F800000 else 0x7F7FFFFF
  | .rup => if neg then 0x7F7FFFFF else 0x7F800000

/-- The significand of a finite binary64 pattern as an integer: the fraction with the hidden bit of a normal value. The
value is `significandD d * 2^(max (expD d) 1 - 1075)`. -/
def significandD (d : Word) : Nat := if expD d = 0 then fracD d else 2 ^ 52 + fracD d

/-- The magnitude bits of a finite binary64 value rounded to binary32, before the overflow check. From exponent field 897
up the result is normal and keeps 24 significant bits; below it the unit is `2^-149`. -/
def narrowMagnitude (mode : RoundMode) (d : Word) : Nat :=
  if 897 ≤ expD d then (expD d - 897) * 2 ^ 23 + roundScaled mode (signD d) (significandD d) 29
  else roundScaled mode (signD d) (significandD d) (926 - max (expD d) 1)

/-- `round_to_binary32(d, mode)` for d not a NaN (rule R930). -/
def roundToBinary32 (d : Word) (mode : RoundMode) : BitVec 32 :=
  let magnitude :=
    if expD d = 2047 then 0x7F800000
    else if 0x7F800000 ≤ narrowMagnitude mode d then overflowMagnitude mode (signD d)
    else narrowMagnitude mode d
  BitVec.ofBool (signD d) ++ BitVec.ofNat 31 magnitude

/-- The result of `FCVT.S.D` before boxing (rule R930). -/
def narrow (d : Word) (mode : RoundMode) : BitVec 32 := if isNanD d then cnanS else roundToBinary32 d mode

/-- The magnitude bits of a binary32 value as binary64: exact. A subnormal value `fracS v * 2^-149` is normalised at its
leading bit. -/
def widenMagnitude (v : BitVec 32) : Nat :=
  if expS v = 255 then 2047 * 2 ^ 52
  else if expS v ≠ 0 then (expS v + 896) * 2 ^ 52 + fracS v * 2 ^ 29
  else if fracS v = 0 then 0
  else (Nat.log2 (fracS v) + 874) * 2 ^ 52 + (fracS v - 2 ^ Nat.log2 (fracS v)) * 2 ^ (52 - Nat.log2 (fracS v))

/-- `widen_to_binary64(v)` for v not a NaN (rule R931). -/
def widenToBinary64 (v : BitVec 32) : Word := BitVec.ofBool (signS v) ++ BitVec.ofNat 63 (widenMagnitude v)

/-- The result of `FCVT.D.S` (rule R931). -/
def widen (v : BitVec 32) : Word := if isNanS v then cnanD else widenToBinary64 v

/-! ### Loads, stores and moves (rules R910 to R913, R920 to R923) -/

/-- A 32-bit memory value NaN-boxed. -/
def boxLow (v : Word) : Word := boxS (low32 v)

/-- `FLW` (rule R910). -/
def execFlw (rd : FReg) (rs1 : XReg) (imm : Word) (s : State) : Host.Outcome State Fault Refusal :=
  loadF 4 boxLow rd rs1 imm 4 s

/-- `FSW` (rule R911). -/
def execFsw (rs1 : XReg) (rs2 : FReg) (imm : Word) (s : State) : Host.Outcome State Fault Refusal :=
  storeF 4 rs1 rs2 imm 4 s

/-- `FLD` (rule R912). -/
def execFld (rd : FReg) (rs1 : XReg) (imm : Word) (s : State) : Host.Outcome State Fault Refusal :=
  loadF 8 id rd rs1 imm 4 s

/-- `FSD` (rule R913). -/
def execFsd (rs1 : XReg) (rs2 : FReg) (imm : Word) (s : State) : Host.Outcome State Fault Refusal :=
  storeF 8 rs1 rs2 imm 4 s

/-- `FMV.X.W` (rule R920): the low half sign-extended, boxed or not. -/
def execFmvXW (rd : XReg) (rs1 : FReg) (s : State) : Host.Outcome State Fault Refusal :=
  writeX rd (sext 32 (s.getF rs1)) 4 s

/-- `FMV.W.X` (rule R921). -/
def execFmvWX (rd : FReg) (rs1 : XReg) (s : State) : Host.Outcome State Fault Refusal :=
  writeF rd (boxS (low32 (s.getX rs1))) 4 s

/-- `FMV.X.D` (rule R922). -/
def execFmvXD (rd : XReg) (rs1 : FReg) (s : State) : Host.Outcome State Fault Refusal := writeX rd (s.getF rs1) 4 s

/-- `FMV.D.X` (rule R923). -/
def execFmvDX (rd : FReg) (rs1 : XReg) (s : State) : Host.Outcome State Fault Refusal := writeF rd (s.getX rs1) 4 s

/-! ### Conversions between single and double precision (rules R930, R931) -/

/-- `FCVT.S.D` (rule R930). -/
def execFcvtSD (rd rs1 : FReg) (rm : BitVec 3) (s : State) : Host.Outcome State Fault Refusal :=
  withRounding (.fcvtSD rd rs1 rm) rm fun mode => writeF rd (boxS (narrow (s.getF rs1) mode)) 4 s

/-- `FCVT.D.S` (rule R931): exact, so the direction matters only for the reserved-value check. -/
def execFcvtDS (rd rs1 : FReg) (rm : BitVec 3) (s : State) : Host.Outcome State Fault Refusal :=
  withRounding (.fcvtDS rd rs1 rm) rm fun _ => writeF rd (widen (unboxS (s.getF rs1))) 4 s

/-! ### The unimplemented instructions (rule R939): every execution halts, whatever the operands and rm -/

/-- `FMADD.S` (rule R940). -/
def execFmaddS (rd rs1 rs2 rs3 : FReg) (rm : BitVec 3) (_s : State) : Host.Outcome State Fault Refusal :=
  unimplemented (.fmaddS rd rs1 rs2 rs3 rm)

/-- `FMSUB.S` (rule R941). -/
def execFmsubS (rd rs1 rs2 rs3 : FReg) (rm : BitVec 3) (_s : State) : Host.Outcome State Fault Refusal :=
  unimplemented (.fmsubS rd rs1 rs2 rs3 rm)

/-- `FNMSUB.S` (rule R942). -/
def execFnmsubS (rd rs1 rs2 rs3 : FReg) (rm : BitVec 3) (_s : State) : Host.Outcome State Fault Refusal :=
  unimplemented (.fnmsubS rd rs1 rs2 rs3 rm)

/-- `FNMADD.S` (rule R943). -/
def execFnmaddS (rd rs1 rs2 rs3 : FReg) (rm : BitVec 3) (_s : State) : Host.Outcome State Fault Refusal :=
  unimplemented (.fnmaddS rd rs1 rs2 rs3 rm)

/-- `FMADD.D` (rule R944). -/
def execFmaddD (rd rs1 rs2 rs3 : FReg) (rm : BitVec 3) (_s : State) : Host.Outcome State Fault Refusal :=
  unimplemented (.fmaddD rd rs1 rs2 rs3 rm)

/-- `FMSUB.D` (rule R945). -/
def execFmsubD (rd rs1 rs2 rs3 : FReg) (rm : BitVec 3) (_s : State) : Host.Outcome State Fault Refusal :=
  unimplemented (.fmsubD rd rs1 rs2 rs3 rm)

/-- `FNMSUB.D` (rule R946). -/
def execFnmsubD (rd rs1 rs2 rs3 : FReg) (rm : BitVec 3) (_s : State) : Host.Outcome State Fault Refusal :=
  unimplemented (.fnmsubD rd rs1 rs2 rs3 rm)

/-- `FNMADD.D` (rule R947). -/
def execFnmaddD (rd rs1 rs2 rs3 : FReg) (rm : BitVec 3) (_s : State) : Host.Outcome State Fault Refusal :=
  unimplemented (.fnmaddD rd rs1 rs2 rs3 rm)

/-- `FADD.S` (rule R950). -/
def execFaddS (rd rs1 rs2 : FReg) (rm : BitVec 3) (_s : State) : Host.Outcome State Fault Refusal :=
  unimplemented (.faddS rd rs1 rs2 rm)

/-- `FSUB.S` (rule R951). -/
def execFsubS (rd rs1 rs2 : FReg) (rm : BitVec 3) (_s : State) : Host.Outcome State Fault Refusal :=
  unimplemented (.fsubS rd rs1 rs2 rm)

/-- `FMUL.S` (rule R952). -/
def execFmulS (rd rs1 rs2 : FReg) (rm : BitVec 3) (_s : State) : Host.Outcome State Fault Refusal :=
  unimplemented (.fmulS rd rs1 rs2 rm)

/-- `FDIV.S` (rule R953). -/
def execFdivS (rd rs1 rs2 : FReg) (rm : BitVec 3) (_s : State) : Host.Outcome State Fault Refusal :=
  unimplemented (.fdivS rd rs1 rs2 rm)

/-- `FSQRT.S` (rule R954). -/
def execFsqrtS (rd rs1 : FReg) (rm : BitVec 3) (_s : State) : Host.Outcome State Fault Refusal :=
  unimplemented (.fsqrtS rd rs1 rm)

/-- `FSGNJ.S` (rule R955). -/
def execFsgnjS (rd rs1 rs2 : FReg) (_s : State) : Host.Outcome State Fault Refusal :=
  unimplemented (.fsgnjS rd rs1 rs2)

/-- `FSGNJN.S` (rule R956). -/
def execFsgnjnS (rd rs1 rs2 : FReg) (_s : State) : Host.Outcome State Fault Refusal :=
  unimplemented (.fsgnjnS rd rs1 rs2)

/-- `FSGNJX.S` (rule R957). -/
def execFsgnjxS (rd rs1 rs2 : FReg) (_s : State) : Host.Outcome State Fault Refusal :=
  unimplemented (.fsgnjxS rd rs1 rs2)

/-- `FMIN.S` (rule R958). -/
def execFminS (rd rs1 rs2 : FReg) (_s : State) : Host.Outcome State Fault Refusal := unimplemented (.fminS rd rs1 rs2)

/-- `FMAX.S` (rule R959). -/
def execFmaxS (rd rs1 rs2 : FReg) (_s : State) : Host.Outcome State Fault Refusal := unimplemented (.fmaxS rd rs1 rs2)

/-- `FCVT.W.S` (rule R960). -/
def execFcvtWS (rd : XReg) (rs1 : FReg) (rm : BitVec 3) (_s : State) : Host.Outcome State Fault Refusal :=
  unimplemented (.fcvtWS rd rs1 rm)

/-- `FCVT.WU.S` (rule R961). -/
def execFcvtWUS (rd : XReg) (rs1 : FReg) (rm : BitVec 3) (_s : State) : Host.Outcome State Fault Refusal :=
  unimplemented (.fcvtWUS rd rs1 rm)

/-- `FCVT.L.S` (rule R962). -/
def execFcvtLS (rd : XReg) (rs1 : FReg) (rm : BitVec 3) (_s : State) : Host.Outcome State Fault Refusal :=
  unimplemented (.fcvtLS rd rs1 rm)

/-- `FCVT.LU.S` (rule R963). -/
def execFcvtLUS (rd : XReg) (rs1 : FReg) (rm : BitVec 3) (_s : State) : Host.Outcome State Fault Refusal :=
  unimplemented (.fcvtLUS rd rs1 rm)

/-- `FCVT.S.W` (rule R964). -/
def execFcvtSW (rd : FReg) (rs1 : XReg) (rm : BitVec 3) (_s : State) : Host.Outcome State Fault Refusal :=
  unimplemented (.fcvtSW rd rs1 rm)

/-- `FCVT.S.WU` (rule R965). -/
def execFcvtSWU (rd : FReg) (rs1 : XReg) (rm : BitVec 3) (_s : State) : Host.Outcome State Fault Refusal :=
  unimplemented (.fcvtSWU rd rs1 rm)

/-- `FCVT.S.L` (rule R966). -/
def execFcvtSL (rd : FReg) (rs1 : XReg) (rm : BitVec 3) (_s : State) : Host.Outcome State Fault Refusal :=
  unimplemented (.fcvtSL rd rs1 rm)

/-- `FCVT.S.LU` (rule R967). -/
def execFcvtSLU (rd : FReg) (rs1 : XReg) (rm : BitVec 3) (_s : State) : Host.Outcome State Fault Refusal :=
  unimplemented (.fcvtSLU rd rs1 rm)

/-- `FEQ.S` (rule R968). -/
def execFeqS (rd : XReg) (rs1 rs2 : FReg) (_s : State) : Host.Outcome State Fault Refusal :=
  unimplemented (.feqS rd rs1 rs2)

/-- `FLT.S` (rule R969). -/
def execFltS (rd : XReg) (rs1 rs2 : FReg) (_s : State) : Host.Outcome State Fault Refusal :=
  unimplemented (.fltS rd rs1 rs2)

/-- `FLE.S` (rule R970). -/
def execFleS (rd : XReg) (rs1 rs2 : FReg) (_s : State) : Host.Outcome State Fault Refusal :=
  unimplemented (.fleS rd rs1 rs2)

/-- `FCLASS.S` (rule R971). -/
def execFclassS (rd : XReg) (rs1 : FReg) (_s : State) : Host.Outcome State Fault Refusal :=
  unimplemented (.fclassS rd rs1)

/-- `FADD.D` (rule R972). -/
def execFaddD (rd rs1 rs2 : FReg) (rm : BitVec 3) (_s : State) : Host.Outcome State Fault Refusal :=
  unimplemented (.faddD rd rs1 rs2 rm)

/-- `FSUB.D` (rule R973). -/
def execFsubD (rd rs1 rs2 : FReg) (rm : BitVec 3) (_s : State) : Host.Outcome State Fault Refusal :=
  unimplemented (.fsubD rd rs1 rs2 rm)

/-- `FMUL.D` (rule R974). -/
def execFmulD (rd rs1 rs2 : FReg) (rm : BitVec 3) (_s : State) : Host.Outcome State Fault Refusal :=
  unimplemented (.fmulD rd rs1 rs2 rm)

/-- `FDIV.D` (rule R975). -/
def execFdivD (rd rs1 rs2 : FReg) (rm : BitVec 3) (_s : State) : Host.Outcome State Fault Refusal :=
  unimplemented (.fdivD rd rs1 rs2 rm)

/-- `FSQRT.D` (rule R976). -/
def execFsqrtD (rd rs1 : FReg) (rm : BitVec 3) (_s : State) : Host.Outcome State Fault Refusal :=
  unimplemented (.fsqrtD rd rs1 rm)

/-- `FSGNJ.D` (rule R977). -/
def execFsgnjD (rd rs1 rs2 : FReg) (_s : State) : Host.Outcome State Fault Refusal :=
  unimplemented (.fsgnjD rd rs1 rs2)

/-- `FSGNJN.D` (rule R978). -/
def execFsgnjnD (rd rs1 rs2 : FReg) (_s : State) : Host.Outcome State Fault Refusal :=
  unimplemented (.fsgnjnD rd rs1 rs2)

/-- `FSGNJX.D` (rule R979). -/
def execFsgnjxD (rd rs1 rs2 : FReg) (_s : State) : Host.Outcome State Fault Refusal :=
  unimplemented (.fsgnjxD rd rs1 rs2)

/-- `FMIN.D` (rule R980). -/
def execFminD (rd rs1 rs2 : FReg) (_s : State) : Host.Outcome State Fault Refusal := unimplemented (.fminD rd rs1 rs2)

/-- `FMAX.D` (rule R981). -/
def execFmaxD (rd rs1 rs2 : FReg) (_s : State) : Host.Outcome State Fault Refusal := unimplemented (.fmaxD rd rs1 rs2)

/-- `FCVT.W.D` (rule R982). -/
def execFcvtWD (rd : XReg) (rs1 : FReg) (rm : BitVec 3) (_s : State) : Host.Outcome State Fault Refusal :=
  unimplemented (.fcvtWD rd rs1 rm)

/-- `FCVT.WU.D` (rule R983). -/
def execFcvtWUD (rd : XReg) (rs1 : FReg) (rm : BitVec 3) (_s : State) : Host.Outcome State Fault Refusal :=
  unimplemented (.fcvtWUD rd rs1 rm)

/-- `FCVT.L.D` (rule R984). -/
def execFcvtLD (rd : XReg) (rs1 : FReg) (rm : BitVec 3) (_s : State) : Host.Outcome State Fault Refusal :=
  unimplemented (.fcvtLD rd rs1 rm)

/-- `FCVT.LU.D` (rule R985). -/
def execFcvtLUD (rd : XReg) (rs1 : FReg) (rm : BitVec 3) (_s : State) : Host.Outcome State Fault Refusal :=
  unimplemented (.fcvtLUD rd rs1 rm)

/-- `FCVT.D.W` (rule R986). -/
def execFcvtDW (rd : FReg) (rs1 : XReg) (rm : BitVec 3) (_s : State) : Host.Outcome State Fault Refusal :=
  unimplemented (.fcvtDW rd rs1 rm)

/-- `FCVT.D.WU` (rule R987). -/
def execFcvtDWU (rd : FReg) (rs1 : XReg) (rm : BitVec 3) (_s : State) : Host.Outcome State Fault Refusal :=
  unimplemented (.fcvtDWU rd rs1 rm)

/-- `FCVT.D.L` (rule R988). -/
def execFcvtDL (rd : FReg) (rs1 : XReg) (rm : BitVec 3) (_s : State) : Host.Outcome State Fault Refusal :=
  unimplemented (.fcvtDL rd rs1 rm)

/-- `FCVT.D.LU` (rule R989). -/
def execFcvtDLU (rd : FReg) (rs1 : XReg) (rm : BitVec 3) (_s : State) : Host.Outcome State Fault Refusal :=
  unimplemented (.fcvtDLU rd rs1 rm)

/-- `FEQ.D` (rule R990). -/
def execFeqD (rd : XReg) (rs1 rs2 : FReg) (_s : State) : Host.Outcome State Fault Refusal :=
  unimplemented (.feqD rd rs1 rs2)

/-- `FLT.D` (rule R991). -/
def execFltD (rd : XReg) (rs1 rs2 : FReg) (_s : State) : Host.Outcome State Fault Refusal :=
  unimplemented (.fltD rd rs1 rs2)

/-- `FLE.D` (rule R992). -/
def execFleD (rd : XReg) (rs1 rs2 : FReg) (_s : State) : Host.Outcome State Fault Refusal :=
  unimplemented (.fleD rd rs1 rs2)

/-- `FCLASS.D` (rule R993). -/
def execFclassD (rd : XReg) (rs1 : FReg) (_s : State) : Host.Outcome State Fault Refusal :=
  unimplemented (.fclassD rd rs1)

end Sys2Proof.Machine
end

