-- ==== Sys2Proof/Machine/Integer.lean ====
section
/-! DEFINITION. The integer computational instructions (41_integer.md). None faults, reads memory or redirects the pc; each has
outcome `Next`. Register and immediate forms share one computation. -/

namespace Sys2Proof.Machine

/-! ### Computations on 64-bit values -/

/-- `a << b[5:0]` (rules R603, R633). -/
def aluSll (a b : Word) : Word := a <<< (b.setWidth 6).toNat

/-- `a >>u b[5:0]` (rules R607, R633). -/
def aluSrl (a b : Word) : Word := a >>> (b.setWidth 6).toNat

/-- `a >>s b[5:0]` (rules R608, R633). -/
def aluSra (a b : Word) : Word := a.sshiftRight (b.setWidth 6).toNat

/-- 1 if `s(a) < s(b)`, else 0 (rules R604, R612). -/
def aluSlt (a b : Word) : Word := boolWord (ltSigned a b)

/-- 1 if `u(a) < u(b)`, else 0 (rules R605, R613). -/
def aluSltu (a b : Word) : Word := boolWord (ltUnsigned a b)

/-! ### Computations on 32-bit words, sign-extended (rule R631) -/

/-- `sext_32(trunc_32(a + b))` (rules R620, R625). -/
def aluAddw (a b : Word) : Word := sext 32 (a + b)

/-- `sext_32(trunc_32(a - b))` (rule R621). -/
def aluSubw (a b : Word) : Word := sext 32 (a - b)

/-- `sext_32(a[31:0] << n)` (rules R622, R626). -/
def aluSllw (a : Word) (n : BitVec 5) : Word := (low32 a <<< n.toNat).signExtend 64

/-- `sext_32(a[31:0] >>u n)` (rules R623, R627). -/
def aluSrlw (a : Word) (n : BitVec 5) : Word := (low32 a >>> n.toNat).signExtend 64

/-- `sext_32(a[31:0] >>s n)` (rules R624, R628). -/
def aluSraw (a : Word) (n : BitVec 5) : Word := ((low32 a).sshiftRight n.toNat).signExtend 64

/-! ### Register-register, 64-bit -/

/-- `ADD` (rule R601). -/
def execAdd (rd rs1 rs2 : XReg) (s : State) : Host.Outcome State Fault Refusal := regReg (· + ·) rd rs1 rs2 4 s

/-- `SUB` (rule R602). -/
def execSub (rd rs1 rs2 : XReg) (s : State) : Host.Outcome State Fault Refusal := regReg (· - ·) rd rs1 rs2 4 s

/-- `SLL` (rule R603). -/
def execSll (rd rs1 rs2 : XReg) (s : State) : Host.Outcome State Fault Refusal := regReg aluSll rd rs1 rs2 4 s

/-- `SLT` (rule R604). -/
def execSlt (rd rs1 rs2 : XReg) (s : State) : Host.Outcome State Fault Refusal := regReg aluSlt rd rs1 rs2 4 s

/-- `SLTU` (rule R605). -/
def execSltu (rd rs1 rs2 : XReg) (s : State) : Host.Outcome State Fault Refusal := regReg aluSltu rd rs1 rs2 4 s

/-- `XOR` (rule R606). -/
def execXor (rd rs1 rs2 : XReg) (s : State) : Host.Outcome State Fault Refusal := regReg (· ^^^ ·) rd rs1 rs2 4 s

/-- `SRL` (rule R607). -/
def execSrl (rd rs1 rs2 : XReg) (s : State) : Host.Outcome State Fault Refusal := regReg aluSrl rd rs1 rs2 4 s

/-- `SRA` (rule R608). -/
def execSra (rd rs1 rs2 : XReg) (s : State) : Host.Outcome State Fault Refusal := regReg aluSra rd rs1 rs2 4 s

/-- `OR` (rule R609). -/
def execOr (rd rs1 rs2 : XReg) (s : State) : Host.Outcome State Fault Refusal := regReg (· ||| ·) rd rs1 rs2 4 s

/-- `AND` (rule R610). -/
def execAnd (rd rs1 rs2 : XReg) (s : State) : Host.Outcome State Fault Refusal := regReg (· &&& ·) rd rs1 rs2 4 s

/-! ### Register-immediate, 64-bit -/

/-- `ADDI` (rule R611). -/
def execAddi (rd rs1 : XReg) (imm : Word) (s : State) : Host.Outcome State Fault Refusal :=
  regImm (· + imm) rd rs1 4 s

/-- `SLTI` (rule R612). -/
def execSlti (rd rs1 : XReg) (imm : Word) (s : State) : Host.Outcome State Fault Refusal :=
  regImm (aluSlt · imm) rd rs1 4 s

/-- `SLTIU` (rule R613). -/
def execSltiu (rd rs1 : XReg) (imm : Word) (s : State) : Host.Outcome State Fault Refusal :=
  regImm (aluSltu · imm) rd rs1 4 s

/-- `XORI` (rule R614). -/
def execXori (rd rs1 : XReg) (imm : Word) (s : State) : Host.Outcome State Fault Refusal :=
  regImm (· ^^^ imm) rd rs1 4 s

/-- `ORI` (rule R615). -/
def execOri (rd rs1 : XReg) (imm : Word) (s : State) : Host.Outcome State Fault Refusal :=
  regImm (· ||| imm) rd rs1 4 s

/-- `ANDI` (rule R616). -/
def execAndi (rd rs1 : XReg) (imm : Word) (s : State) : Host.Outcome State Fault Refusal :=
  regImm (· &&& imm) rd rs1 4 s

/-- `SLLI` (rule R617). -/
def execSlli (rd rs1 : XReg) (shamt : BitVec 6) (s : State) : Host.Outcome State Fault Refusal :=
  regImm (· <<< shamt.toNat) rd rs1 4 s

/-- `SRLI` (rule R618). -/
def execSrli (rd rs1 : XReg) (shamt : BitVec 6) (s : State) : Host.Outcome State Fault Refusal :=
  regImm (· >>> shamt.toNat) rd rs1 4 s

/-- `SRAI` (rule R619). -/
def execSrai (rd rs1 : XReg) (shamt : BitVec 6) (s : State) : Host.Outcome State Fault Refusal :=
  regImm (·.sshiftRight shamt.toNat) rd rs1 4 s

/-! ### Register-register, 32-bit word -/

/-- `ADDW` (rule R620). -/
def execAddw (rd rs1 rs2 : XReg) (s : State) : Host.Outcome State Fault Refusal := regReg aluAddw rd rs1 rs2 4 s

/-- `SUBW` (rule R621). -/
def execSubw (rd rs1 rs2 : XReg) (s : State) : Host.Outcome State Fault Refusal := regReg aluSubw rd rs1 rs2 4 s

/-- `SLLW` (rule R622). -/
def execSllw (rd rs1 rs2 : XReg) (s : State) : Host.Outcome State Fault Refusal :=
  regReg (fun a b => aluSllw a (b.setWidth 5)) rd rs1 rs2 4 s

/-- `SRLW` (rule R623). -/
def execSrlw (rd rs1 rs2 : XReg) (s : State) : Host.Outcome State Fault Refusal :=
  regReg (fun a b => aluSrlw a (b.setWidth 5)) rd rs1 rs2 4 s

/-- `SRAW` (rule R624). -/
def execSraw (rd rs1 rs2 : XReg) (s : State) : Host.Outcome State Fault Refusal :=
  regReg (fun a b => aluSraw a (b.setWidth 5)) rd rs1 rs2 4 s

/-! ### Register-immediate, 32-bit word -/

/-- `ADDIW` (rule R625). -/
def execAddiw (rd rs1 : XReg) (imm : Word) (s : State) : Host.Outcome State Fault Refusal :=
  regImm (aluAddw · imm) rd rs1 4 s

/-- `SLLIW` (rule R626). -/
def execSlliw (rd rs1 : XReg) (shamt : BitVec 5) (s : State) : Host.Outcome State Fault Refusal :=
  regImm (aluSllw · shamt) rd rs1 4 s

/-- `SRLIW` (rule R627). -/
def execSrliw (rd rs1 : XReg) (shamt : BitVec 5) (s : State) : Host.Outcome State Fault Refusal :=
  regImm (aluSrlw · shamt) rd rs1 4 s

/-- `SRAIW` (rule R628). -/
def execSraiw (rd rs1 : XReg) (shamt : BitVec 5) (s : State) : Host.Outcome State Fault Refusal :=
  regImm (aluSraw · shamt) rd rs1 4 s

end Sys2Proof.Machine
end

