-- ==== Sys2Proof/Machine/LoadStore.lean ====
section
/-! DEFINITION. The integer loads and stores (43_loadstore.md). No alignment is required (20_memory.md rule R221); an access that is
not admitted faults with its first address and writes nothing (rules R211 to R213). -/

namespace Sys2Proof.Machine

/-- `LB` (rule R751). -/
def execLb (rd rs1 : XReg) (imm : Word) (s : State) : Host.Outcome State Fault Refusal :=
  loadX 1 (sext 8) rd rs1 imm 4 s

/-- `LH` (rule R752). -/
def execLh (rd rs1 : XReg) (imm : Word) (s : State) : Host.Outcome State Fault Refusal :=
  loadX 2 (sext 16) rd rs1 imm 4 s

/-- `LW` (rule R753). -/
def execLw (rd rs1 : XReg) (imm : Word) (s : State) : Host.Outcome State Fault Refusal :=
  loadX 4 (sext 32) rd rs1 imm 4 s

/-- `LD` (rule R754). -/
def execLd (rd rs1 : XReg) (imm : Word) (s : State) : Host.Outcome State Fault Refusal := loadX 8 id rd rs1 imm 4 s

/-- `LBU` (rule R755). -/
def execLbu (rd rs1 : XReg) (imm : Word) (s : State) : Host.Outcome State Fault Refusal :=
  loadX 1 (zext 8) rd rs1 imm 4 s

/-- `LHU` (rule R756). -/
def execLhu (rd rs1 : XReg) (imm : Word) (s : State) : Host.Outcome State Fault Refusal :=
  loadX 2 (zext 16) rd rs1 imm 4 s

/-- `LWU` (rule R757). -/
def execLwu (rd rs1 : XReg) (imm : Word) (s : State) : Host.Outcome State Fault Refusal :=
  loadX 4 (zext 32) rd rs1 imm 4 s

/-- `SB` (rule R758). -/
def execSb (rs1 rs2 : XReg) (imm : Word) (s : State) : Host.Outcome State Fault Refusal := storeX 1 rs1 rs2 imm 4 s

/-- `SH` (rule R759). -/
def execSh (rs1 rs2 : XReg) (imm : Word) (s : State) : Host.Outcome State Fault Refusal := storeX 2 rs1 rs2 imm 4 s

/-- `SW` (rule R760). -/
def execSw (rs1 rs2 : XReg) (imm : Word) (s : State) : Host.Outcome State Fault Refusal := storeX 4 rs1 rs2 imm 4 s

/-- `SD` (rule R761). -/
def execSd (rs1 rs2 : XReg) (imm : Word) (s : State) : Host.Outcome State Fault Refusal := storeX 8 rs1 rs2 imm 4 s

end Sys2Proof.Machine
end

