-- ==== Sys2Proof/Machine/Mmu.lean ====
section
/-! DEFINITION. The region operations of the MMU (20_memory.md rules R204 to R209) and the stack installation
(70_reset_and_hazards.md rule R1203). Instructions never call them: the driver and the syscall collaborator do
(rule R209). -/

namespace Sys2Proof.Machine

/-- The one error of the region operations (rule R205). -/
inductive ResourceError where
  | resourceError
deriving DecidableEq, Repr

/-- `PAGE_SIZE`: the larger of the host's and the guest's page size (00_scope.md rule R12). -/
def pageSize (c : Config) : Nat := max c.hostPageSize guestPageSize

/-- `round_up(n)` (rule R204). -/
def roundUp (c : Config) (n : Nat) : Nat := (n + (pageSize c - 1)) / pageSize c * pageSize c

/-- The first address past a region, as an unbounded integer. -/
def Region.limit (R : Region) : Nat := R.base.toNat + R.length.toNat

/-- The region's range meets `[lo, lo + n)`, as ranges of unbounded integers; an empty range meets nothing
(rule R207). -/
def Region.meets (R : Region) (lo n : Nat) : Bool :=
  decide (0 < n) && decide (lo < R.limit) && decide (R.base.toNat < lo + n)

/-- No region of the table meets `[lo, lo + n)`. -/
def rangeFree (rs : List Region) (lo n : Nat) : Bool := rs.all fun R => !R.meets lo n

/-- Add a region to the table, by rising base (10_state.md rule R111). -/
def insertRegion (R : Region) (rs : List Region) : List Region :=
  match rs with
  | [] => [R]
  | Q :: rest => if R.base.toNat < Q.base.toNat then R :: Q :: rest else Q :: insertRegion R rest

/-- A base `AllocBase` may return for a new region of `n` bytes: a multiple of `PAGE_SIZE`, free, without wrap
(rule R206, decision D23; assumption log 12). -/
def legalBase (s : State) (b : Word) (n : Nat) : Bool :=
  decide (b.toNat % pageSize s.cfg = 0) && rangeFree s.regions b.toNat n && decide (b.toNat + n ≤ 2 ^ 64)

/-- `allocate(length, is_stack)` (rule R205). `draw` is what `AllocBase` answers; no answer, or an answer that is not
legal, is `ResourceError` (rule R206), as is a rounded length that 64 bits cannot hold (assumption log 13). `isStack`
has no effect (decision D23). -/
def allocate (length : Word) (_isStack : Bool) (draw : Option Word) (s : State) :
    Except ResourceError (Word × State) :=
  let n := roundUp s.cfg length.toNat
  if length = 0 then .error .resourceError
  else if 2 ^ 64 ≤ n then .error .resourceError
  else
    match draw with
    | none => .error .resourceError
    | some b =>
      if legalBase s b n then
        .ok (b, { s with
          regions := insertRegion { base := b, length := BitVec.ofNat 64 n, writable := true, owned := true } s.regions
          mem := s.mem.clear b.toNat (b.toNat + n) })
      else .error .resourceError

/-- Forget the bytes of some regions. -/
def Memory.clearRegions (m : Memory) (rs : List Region) : Memory :=
  match rs with
  | [] => m
  | R :: rest => Memory.clearRegions (m.clear R.base.toNat R.limit) rest

/-- `deallocate(address, length)` (rule R207): every region that meets the range goes, whole, with its bytes. -/
def deallocate (address length : Word) (s : State) : State :=
  { s with
    regions := s.regions.filter fun R => !R.meets address.toNat length.toNat
    mem := s.mem.clearRegions (s.regions.filter fun R => R.meets address.toNat length.toNat) }

/-- `register_host_memory(pointer, length, writable)` (rule R208), given the guest base chosen for the host range and the
host's bytes (decision D24; assumption log 16). -/
def registerHostMemory (base : Word) (writable : Bool) (bytes : List Byte) (s : State) :
    Except ResourceError (Word × State) :=
  if bytes.length = 0 ∨ 2 ^ 64 ≤ bytes.length then .error .resourceError
  else if rangeFree s.regions base.toNat bytes.length ∧ base.toNat + bytes.length ≤ 2 ^ 64 then
    .ok (base, { s with
      regions := insertRegion { base := base, length := BitVec.ofNat 64 bytes.length, writable := writable, owned := false }
        s.regions
      mem := (s.mem.clear base.toNat (base.toNat + bytes.length)).setBytes base.toNat bytes })
  else .error .resourceError

/-- `install_stack(n)` (rule R1203): allocate, then `x[2] <- b + n`. -/
def installStack (n : Word) (draw : Option Word) (s : State) : Except ResourceError (Word × State) :=
  match allocate n true draw s with
  | .ok (b, t) => .ok (b, t.setX 2 (b + n))
  | .error e => .error e

/-- The state after a region operation: unchanged on an error. -/
def stateAfter (r : Except ResourceError (Word × State)) (s : State) : State :=
  match r with
  | .ok (_, t) => t
  | .error _ => s

/-- Write one byte through the MMU: nothing happens at an address no region contains (rule R203: `translate` checks no
permission; assumption log 8). -/
def poke (a : Word) (b : Byte) (s : State) : State :=
  match s.translate a with
  | some _ => { s with mem := s.mem.setByte a.toNat b }
  | none => s

/-- One thing the collaborator does during a call (rules R209, R1010). -/
def applyGuestOp (op : GuestOp) (s : State) : State :=
  match op with
  | .poke a b => poke a b s
  | .allocate n isStack draw => stateAfter (allocate n isStack draw s) s
  | .deallocate a n => deallocate a n s
  | .register base writable bytes => stateAfter (registerHostMemory base writable bytes s) s

/-- All that the collaborator does during a call, in order. -/
def applyGuestOps (ops : List GuestOp) (s : State) : State :=
  match ops with
  | [] => s
  | op :: rest => applyGuestOps rest (applyGuestOp op s)

end Sys2Proof.Machine
end

