-- ==== Sys2Proof/Machine/System.lean ====
section
/-! DEFINITION. The system instructions and the syscall collaborator (47_system.md). -/

namespace Sys2Proof.Machine

/-- `FENCE` (rule R1000): a full barrier, which orders nothing that is not ordered already (20_memory.md rule R231); every
field is ignored. -/
def execFence (_fm _pred _succ : BitVec 4) (_rs1 _rd : XReg) (s : State) : Host.Outcome State Fault Refusal :=
  advance 4 s

/-- What ECALL hands to the collaborator: the number and the six arguments (rule R1010). -/
structure SyscallCall where
  /-- The syscall number, x17. -/
  number : Word
  /-- The six arguments, x10 to x15. -/
  args : Vector Word 6
deriving DecidableEq, Repr

/-- The call the registers describe (rule R1011). -/
def State.syscallCall (s : State) : SyscallCall :=
  { number := s.getX 17
    args := #v[s.getX 10, s.getX 11, s.getX 12, s.getX 13, s.getX 14, s.getX 15] }

/-- The value returned for a number the collaborator does not recognise: `2^64 - ENOSYS` (rule R1010). -/
def notImplementedValue (c : Config) : Word := -c.enosys

/-- The result an answer gives, before the rule on process termination. -/
def answerResult (a : SyscallAnswer) (c : Config) : SyscallResult :=
  match a with
  | .notRecognised _ => .ret (notImplementedValue c)
  | .recognised r _ => r

/-- What an answer does to memory and regions. -/
def answerEffects (a : SyscallAnswer) : List GuestOp :=
  match a with
  | .notRecognised ops => ops
  | .recognised _ ops => ops

/-- A process-termination call exits, whatever was answered (rule R1010): `exit` 93 with its first argument; `exit_group`
94 with the code answered, or with its first argument where no exit was answered (assumption log 7). Every other number
keeps the result answered. -/
def settleResult (c : SyscallCall) (r : SyscallResult) : SyscallResult :=
  if c.number = 93 then .exit c.args[0]
  else if c.number = 94 then
    match r with
    | .exit code => .exit code
    | .ret _ => .exit c.args[0]
  else r

/-- `Syscall(number, args, M)` (rule R1010; assumption log 7): the result, and the state with the collaborator's memory
and region effects. Each call takes the next answer; a call with no answer left is not recognised and has no effect, so
that an empty list is the reference collaborator of decision D40. -/
def syscall (c : SyscallCall) (s : State) : SyscallResult × State :=
  match s.syscalls with
  | [] => (settleResult c (.ret (notImplementedValue s.cfg)), s)
  | a :: rest => (settleResult c (answerResult a s.cfg), applyGuestOps (answerEffects a) { s with syscalls := rest })

/-- `ECALL` (rule R1011): clear the reservation, call, and either write x10 or end the run. On an exit the collaborator's
effects and the cleared reservation stay, no register is written and the pc stays at the ECALL. -/
def execEcall (s : State) : Host.Outcome State Fault Refusal :=
  match syscall s.syscallCall { s with resv := none } with
  | (.ret v, t) => writeX 10 v 4 t
  | (.exit c, t) => halt (.exit c t)

/-- `EBREAK` (rule R1012): `stop Break`. -/
def execEbreak (_s : State) : Host.Outcome State Fault Refusal := halt .breakpoint

end Sys2Proof.Machine
end

