-- ==== Sys2Proof/Machine/UpperImmediate.lean ====
section
/-! DEFINITION. The upper-immediate instructions (45_upper_immediate.md). The immediate is already shifted and sign-extended (rule
R850). -/

namespace Sys2Proof.Machine

/-- `LUI` (rule R850): `x[rd] <- imm`. -/
def execLui (rd : XReg) (imm : Word) (s : State) : Host.Outcome State Fault Refusal := writeX rd imm 4 s

/-- `AUIPC` (rule R851): `x[rd] <- pc + imm`, pc being the address of this instruction. -/
def execAuipc (rd : XReg) (imm : Word) (s : State) : Host.Outcome State Fault Refusal := writeX rd (s.pc + imm) 4 s

end Sys2Proof.Machine
end

