-- ==== Sys2Proof/Machine/Compressed.lean ====
section
/-! DEFINITION. The compressed forms (30_encoding.md rules R410 to R451). Each does what the full instruction it expands to does, with
length 2: the pc advances by 2 and C.JALR links pc + 2 (rule R400, 40_execution_cycle.md rule R503). -/

namespace Sys2Proof.Machine

/-- `C.ADDI4SPN` (rule R410): expands to `ADDI rd, x2, imm`, rule R611. -/
def execCAddi4spn (rd : XReg) (imm : Word) (s : State) : Host.Outcome State Fault Refusal := regImm (· + imm) rd 2 2 s

/-- `C.FLD` (rule R411): expands to `FLD rd, imm(rs1)`, rule R912. -/
def execCFld (rd : FReg) (rs1 : XReg) (imm : Word) (s : State) : Host.Outcome State Fault Refusal :=
  loadF 8 id rd rs1 imm 2 s

/-- `C.LW` (rule R412): expands to `LW rd, imm(rs1)`, rule R753. -/
def execCLw (rd rs1 : XReg) (imm : Word) (s : State) : Host.Outcome State Fault Refusal :=
  loadX 4 (sext 32) rd rs1 imm 2 s

/-- `C.LD` (rule R413): expands to `LD rd, imm(rs1)`, rule R754. -/
def execCLd (rd rs1 : XReg) (imm : Word) (s : State) : Host.Outcome State Fault Refusal := loadX 8 id rd rs1 imm 2 s

/-- `C.FSD` (rule R415): expands to `FSD rs2, imm(rs1)`, rule R913. -/
def execCFsd (rs1 : XReg) (rs2 : FReg) (imm : Word) (s : State) : Host.Outcome State Fault Refusal :=
  storeF 8 rs1 rs2 imm 2 s

/-- `C.SW` (rule R416): expands to `SW rs2, imm(rs1)`, rule R760. -/
def execCSw (rs1 rs2 : XReg) (imm : Word) (s : State) : Host.Outcome State Fault Refusal := storeX 4 rs1 rs2 imm 2 s

/-- `C.SD` (rule R417): expands to `SD rs2, imm(rs1)`, rule R761. -/
def execCSd (rs1 rs2 : XReg) (imm : Word) (s : State) : Host.Outcome State Fault Refusal := storeX 8 rs1 rs2 imm 2 s

/-- `C.NOP` (rule R420): expands to `ADDI x0, x0, 0`, rule R611. -/
def execCNop (s : State) : Host.Outcome State Fault Refusal := regImm (· + 0) 0 0 2 s

/-- `C.ADDI` (rule R420): expands to `ADDI rd, rd, imm`, rule R611. -/
def execCAddi (rd : XReg) (imm : Word) (s : State) : Host.Outcome State Fault Refusal := regImm (· + imm) rd rd 2 s

/-- `C.ADDIW` (rule R421): expands to `ADDIW rd, rd, imm`, rule R625. -/
def execCAddiw (rd : XReg) (imm : Word) (s : State) : Host.Outcome State Fault Refusal :=
  regImm (aluAddw · imm) rd rd 2 s

/-- `C.LI` (rule R422): expands to `ADDI rd, x0, imm`, rule R611. -/
def execCLi (rd : XReg) (imm : Word) (s : State) : Host.Outcome State Fault Refusal := regImm (· + imm) rd 0 2 s

/-- `C.ADDI16SP` (rule R423): expands to `ADDI x2, x2, imm`, rule R611. -/
def execCAddi16sp (imm : Word) (s : State) : Host.Outcome State Fault Refusal := regImm (· + imm) 2 2 2 s

/-- `C.LUI` (rule R424): expands to `LUI rd, imm`, rule R850. -/
def execCLui (rd : XReg) (imm : Word) (s : State) : Host.Outcome State Fault Refusal := writeX rd imm 2 s

/-- `C.SRLI` (rule R425): expands to `SRLI rd, rd, shamt`, rule R618. -/
def execCSrli (rd : XReg) (shamt : BitVec 6) (s : State) : Host.Outcome State Fault Refusal :=
  regImm (· >>> shamt.toNat) rd rd 2 s

/-- `C.SRAI` (rule R426): expands to `SRAI rd, rd, shamt`, rule R619. -/
def execCSrai (rd : XReg) (shamt : BitVec 6) (s : State) : Host.Outcome State Fault Refusal :=
  regImm (·.sshiftRight shamt.toNat) rd rd 2 s

/-- `C.ANDI` (rule R427): expands to `ANDI rd, rd, imm`, rule R616. -/
def execCAndi (rd : XReg) (imm : Word) (s : State) : Host.Outcome State Fault Refusal := regImm (· &&& imm) rd rd 2 s

/-- `C.SUB` (rule R428): expands to `SUB rd, rd, rs2`, rule R602. -/
def execCSub (rd rs2 : XReg) (s : State) : Host.Outcome State Fault Refusal := regReg (· - ·) rd rd rs2 2 s

/-- `C.XOR` (rule R429): expands to `XOR rd, rd, rs2`, rule R606. -/
def execCXor (rd rs2 : XReg) (s : State) : Host.Outcome State Fault Refusal := regReg (· ^^^ ·) rd rd rs2 2 s

/-- `C.OR` (rule R430): expands to `OR rd, rd, rs2`, rule R609. -/
def execCOr (rd rs2 : XReg) (s : State) : Host.Outcome State Fault Refusal := regReg (· ||| ·) rd rd rs2 2 s

/-- `C.AND` (rule R431): expands to `AND rd, rd, rs2`, rule R610. -/
def execCAnd (rd rs2 : XReg) (s : State) : Host.Outcome State Fault Refusal := regReg (· &&& ·) rd rd rs2 2 s

/-- `C.SUBW` (rule R432): expands to `SUBW rd, rd, rs2`, rule R621. -/
def execCSubw (rd rs2 : XReg) (s : State) : Host.Outcome State Fault Refusal := regReg aluSubw rd rd rs2 2 s

/-- `C.ADDW` (rule R433): expands to `ADDW rd, rd, rs2`, rule R620. -/
def execCAddw (rd rs2 : XReg) (s : State) : Host.Outcome State Fault Refusal := regReg aluAddw rd rd rs2 2 s

/-- `C.J` (rule R435): expands to `JAL x0, imm`, rule R800. -/
def execCJ (imm : Word) (s : State) : Host.Outcome State Fault Refusal := jumpOffset 0 imm 2 s

/-- `C.BEQZ` (rule R436): expands to `BEQ rs1, x0, imm`, rule R802. -/
def execCBeqz (rs1 : XReg) (imm : Word) (s : State) : Host.Outcome State Fault Refusal := branch condEq rs1 0 imm 2 s

/-- `C.BNEZ` (rule R437): expands to `BNE rs1, x0, imm`, rule R803. -/
def execCBnez (rs1 : XReg) (imm : Word) (s : State) : Host.Outcome State Fault Refusal := branch condNe rs1 0 imm 2 s

/-- `C.SLLI` (rule R440): expands to `SLLI rd, rd, shamt`, rule R617. -/
def execCSlli (rd : XReg) (shamt : BitVec 6) (s : State) : Host.Outcome State Fault Refusal :=
  regImm (· <<< shamt.toNat) rd rd 2 s

/-- `C.FLDSP` (rule R441): expands to `FLD rd, imm(x2)`, rule R912. -/
def execCFldsp (rd : FReg) (imm : Word) (s : State) : Host.Outcome State Fault Refusal := loadF 8 id rd 2 imm 2 s

/-- `C.LWSP` (rule R442): expands to `LW rd, imm(x2)`, rule R753. -/
def execCLwsp (rd : XReg) (imm : Word) (s : State) : Host.Outcome State Fault Refusal :=
  loadX 4 (sext 32) rd 2 imm 2 s

/-- `C.LDSP` (rule R443): expands to `LD rd, imm(x2)`, rule R754. -/
def execCLdsp (rd : XReg) (imm : Word) (s : State) : Host.Outcome State Fault Refusal := loadX 8 id rd 2 imm 2 s

/-- `C.JR` (rule R444): expands to `JALR x0, 0(rs1)`, rule R801. -/
def execCJr (rs1 : XReg) (s : State) : Host.Outcome State Fault Refusal := jumpRegister 0 rs1 0 2 s

/-- `C.MV` (rule R445): expands to `ADD rd, x0, rs2`, rule R601. -/
def execCMv (rd rs2 : XReg) (s : State) : Host.Outcome State Fault Refusal := regReg (· + ·) rd 0 rs2 2 s

/-- `C.EBREAK` (rule R446): expands to `EBREAK`, rule R1012. -/
def execCEbreak (_s : State) : Host.Outcome State Fault Refusal := halt .breakpoint

/-- `C.JALR` (rule R447): expands to `JALR x1, 0(rs1)`, rule R801. -/
def execCJalr (rs1 : XReg) (s : State) : Host.Outcome State Fault Refusal := jumpRegister 1 rs1 0 2 s

/-- `C.ADD` (rule R448): expands to `ADD rd, rd, rs2`, rule R601. -/
def execCAdd (rd rs2 : XReg) (s : State) : Host.Outcome State Fault Refusal := regReg (· + ·) rd rd rs2 2 s

/-- `C.FSDSP` (rule R449): expands to `FSD rs2, imm(x2)`, rule R913. -/
def execCFsdsp (rs2 : FReg) (imm : Word) (s : State) : Host.Outcome State Fault Refusal := storeF 8 2 rs2 imm 2 s

/-- `C.SWSP` (rule R450): expands to `SW rs2, imm(x2)`, rule R760. -/
def execCSwsp (rs2 : XReg) (imm : Word) (s : State) : Host.Outcome State Fault Refusal := storeX 4 2 rs2 imm 2 s

/-- `C.SDSP` (rule R451): expands to `SD rs2, imm(x2)`, rule R761. -/
def execCSdsp (rs2 : XReg) (imm : Word) (s : State) : Host.Outcome State Fault Refusal := storeX 8 2 rs2 imm 2 s

end Sys2Proof.Machine
end

