-- ==== Sys2Proof/Machine/MulDiv.lean ====
section
/-! DEFINITION. The multiply and divide instructions (42_muldiv.md): computed on mathematical integers and then narrowed (rule R700).
The corner cases follow rule R720; nothing traps. -/

namespace Sys2Proof.Machine

/-- `quot(a, b)`: a/b rounded towards zero (rule R700). -/
def quot (a b : Int) : Int := a.tdiv b

/-- `rem(a, b)`: `a - b * quot(a, b)`, of the dividend's sign (rule R700). -/
def rem (a b : Int) : Int := a - b * quot a b

/-- All ones, the quotient by zero (rule R720). -/
def allOnes : Word := 0xFFFFFFFFFFFFFFFF

/-- `MUL` (rule R701): the low 64 bits of the product. -/
def mulLow (a b : Word) : Word := a * b

/-- `MULH` (rule R702): bits 127 to 64 of the signed product (the shift is division by 2^64, rounding down). -/
def mulHighSigned (a b : Word) : Word := BitVec.ofInt 64 (a.toInt * b.toInt / 2 ^ 64)

/-- `MULHSU` (rule R703): signed by unsigned. -/
def mulHighSignedUnsigned (a b : Word) : Word := BitVec.ofInt 64 (a.toInt * (b.toNat : Int) / 2 ^ 64)

/-- `MULHU` (rule R704): unsigned. -/
def mulHighUnsigned (a b : Word) : Word := BitVec.ofNat 64 (a.toNat * b.toNat / 2 ^ 64)

/-- `DIV` (rule R705). -/
def divSigned (a b : Word) : Word :=
  if b = 0 then allOnes
  else if a.toInt = -2 ^ 63 ∧ b.toInt = -1 then 0x8000000000000000
  else BitVec.ofInt 64 (quot a.toInt b.toInt)

/-- `DIVU` (rule R706). -/
def divUnsigned (a b : Word) : Word :=
  if b = 0 then allOnes else BitVec.ofNat 64 (a.toNat / b.toNat)

/-- `REM` (rule R707). -/
def remSigned (a b : Word) : Word :=
  if b = 0 then a
  else if a.toInt = -2 ^ 63 ∧ b.toInt = -1 then 0
  else BitVec.ofInt 64 (rem a.toInt b.toInt)

/-- `REMU` (rule R708). -/
def remUnsigned (a b : Word) : Word :=
  if b = 0 then a else BitVec.ofNat 64 (a.toNat % b.toNat)

/-- `MULW` (rule R709). -/
def mulWord (a b : Word) : Word := (low32 a * low32 b).signExtend 64

/-- `DIVW` (rule R710). -/
def divSignedWord (a b : Word) : Word :=
  if (low32 b).toInt = 0 then allOnes
  else if (low32 a).toInt = -2 ^ 31 ∧ (low32 b).toInt = -1 then 0xFFFFFFFF80000000
  else (BitVec.ofInt 32 (quot (low32 a).toInt (low32 b).toInt)).signExtend 64

/-- `DIVUW` (rule R711). -/
def divUnsignedWord (a b : Word) : Word :=
  if (low32 b).toNat = 0 then allOnes
  else (BitVec.ofNat 32 ((low32 a).toNat / (low32 b).toNat)).signExtend 64

/-- `REMW` (rule R712). -/
def remSignedWord (a b : Word) : Word :=
  if (low32 b).toInt = 0 then sext 32 a
  else if (low32 a).toInt = -2 ^ 31 ∧ (low32 b).toInt = -1 then 0
  else (BitVec.ofInt 32 (rem (low32 a).toInt (low32 b).toInt)).signExtend 64

/-- `REMUW` (rule R713). -/
def remUnsignedWord (a b : Word) : Word :=
  if (low32 b).toNat = 0 then sext 32 a
  else (BitVec.ofNat 32 ((low32 a).toNat % (low32 b).toNat)).signExtend 64

/-- `MUL` (rule R701). -/
def execMul (rd rs1 rs2 : XReg) (s : State) : Host.Outcome State Fault Refusal := regReg mulLow rd rs1 rs2 4 s

/-- `MULH` (rule R702). -/
def execMulh (rd rs1 rs2 : XReg) (s : State) : Host.Outcome State Fault Refusal := regReg mulHighSigned rd rs1 rs2 4 s

/-- `MULHSU` (rule R703). -/
def execMulhsu (rd rs1 rs2 : XReg) (s : State) : Host.Outcome State Fault Refusal :=
  regReg mulHighSignedUnsigned rd rs1 rs2 4 s

/-- `MULHU` (rule R704). -/
def execMulhu (rd rs1 rs2 : XReg) (s : State) : Host.Outcome State Fault Refusal :=
  regReg mulHighUnsigned rd rs1 rs2 4 s

/-- `DIV` (rule R705). -/
def execDiv (rd rs1 rs2 : XReg) (s : State) : Host.Outcome State Fault Refusal := regReg divSigned rd rs1 rs2 4 s

/-- `DIVU` (rule R706). -/
def execDivu (rd rs1 rs2 : XReg) (s : State) : Host.Outcome State Fault Refusal := regReg divUnsigned rd rs1 rs2 4 s

/-- `REM` (rule R707). -/
def execRem (rd rs1 rs2 : XReg) (s : State) : Host.Outcome State Fault Refusal := regReg remSigned rd rs1 rs2 4 s

/-- `REMU` (rule R708). -/
def execRemu (rd rs1 rs2 : XReg) (s : State) : Host.Outcome State Fault Refusal := regReg remUnsigned rd rs1 rs2 4 s

/-- `MULW` (rule R709). -/
def execMulw (rd rs1 rs2 : XReg) (s : State) : Host.Outcome State Fault Refusal := regReg mulWord rd rs1 rs2 4 s

/-- `DIVW` (rule R710). -/
def execDivw (rd rs1 rs2 : XReg) (s : State) : Host.Outcome State Fault Refusal := regReg divSignedWord rd rs1 rs2 4 s

/-- `DIVUW` (rule R711). -/
def execDivuw (rd rs1 rs2 : XReg) (s : State) : Host.Outcome State Fault Refusal :=
  regReg divUnsignedWord rd rs1 rs2 4 s

/-- `REMW` (rule R712). -/
def execRemw (rd rs1 rs2 : XReg) (s : State) : Host.Outcome State Fault Refusal := regReg remSignedWord rd rs1 rs2 4 s

/-- `REMUW` (rule R713). -/
def execRemuw (rd rs1 rs2 : XReg) (s : State) : Host.Outcome State Fault Refusal :=
  regReg remUnsignedWord rd rs1 rs2 4 s

end Sys2Proof.Machine
end

