-- ==== Sys2Proof/Machine/Fetch.lean ====
section
/-! DEFINITION. Fetching and decoding the instruction at pc (40_execution_cycle.md rules R500 to R502), and placing an
instruction's bytes where the next fetch reads them. -/

namespace Sys2Proof.Machine

/-- The bytes of the instruction at pc (rule R501): one byte gives the width, then the whole width is read. A miss of
either read is `MemoryFault(Load, pc)`. -/
def fetch (s : State) : Except Fault (List Byte) :=
  match fetchRead s s.pc 1 with
  | .ok bs => fetchRead s s.pc (lengthOf (bs.headD 0))
  | .error h => .error h

/-- Decode fetched bytes (rules R300, R502) to the row they are an encoding of, whose meaning knows its length:
an undecodable word is `ReservedInstruction(raw, len)`. A window of too few bytes, which a fetch never gives, reads as a
fetch miss. -/
def decodeFetched (pc : Word) (bs : List Byte) : Except Fault Instr :=
  match decodeRow bs with
  | some (.instr i, _) => .ok i
  | some (.invalid raw len, _) => .error (.reservedInstruction raw len)
  | none => .error (.memoryFault .load pc)

/-- Fetch and decode: the instruction the step runs, or the halt outcome (rule R500). -/
def fetchDecode (s : State) : Except Fault Instr :=
  match fetch s with
  | .ok bs => decodeFetched s.pc bs
  | .error h => .error h

/-- Place four bytes at pc so that the next step fetches them (assumption log 14). Where pc already holds four readable
bytes they are overwritten; elsewhere the bytes are registered as a program image of their own (70_reset_and_hazards.md
rule R1204), after whatever region is in the way is removed. A pc too close to the top of the address space becomes 0. -/
def placeAtPc (bytes : List Byte) (s : State) : State :=
  let t := if s.pc.toNat + 4 ≤ 2 ^ 64 then s else { s with pc := 0 }
  if t.readable t.pc 4 then { t with mem := t.mem.setBytes t.pc.toNat bytes }
  else
    let u := deallocate t.pc 4 t
    stateAfter (registerHostMemory t.pc true bytes u) u

end Sys2Proof.Machine
end

