-- ==== Sys2Proof/Machine/Step.lean ====
section
/-! DEFINITION. One step (40_execution_cycle.md rule R500), and the state whose next step runs a given word. -/

namespace Sys2Proof.Machine

/-- `step(s)` (rule R500): fetch, decode, execute. The meanings write the pc themselves (rule R504). -/
def step (s : State) : Host.Outcome State Fault Refusal :=
  match fetchDecode s with
  | .ok i => exec i s
  | .error h => halt h

/-- `s` with the instruction of the opcode table's bits `w`, `nbits` of them, placed where `step` fetches next: the bits
above `nbits` are 0, up to the longest instruction of 4 bytes (assumption log 14). -/
def State.withFetchWord (s : State) (nbits w : Nat) : State :=
  placeAtPc (leBytes 4 (BitVec.ofNat 64 (w % 2 ^ nbits))) s

end Sys2Proof.Machine
end

