-- ==== Sys2Proof/Machine/Run.lean ====
section
/-! DEFINITION. The outcomes of a step by the spec's names (10_state.md rule R130, 60_exceptions.md rule R1100), the run
loop (40_execution_cycle.md rules R520 to R524) and construction (70_reset_and_hazards.md rule R1200). -/

namespace Sys2Proof.Machine

/-- The outcome of one step (rule R130). -/
inductive StepOutcome where
  /-- Fall through to pc + len. -/
  | next
  /-- An explicit control transfer to a target. -/
  | continueAt (target : Word)
  /-- A halt, with what it records. -/
  | halted (reason : Fault)
deriving DecidableEq, Repr

/-- The reference code of a halt outcome (rule R1100). -/
def haltCode (h : Fault) : Nat :=
  match h with
  | .breakpoint => 2
  | .reservedInstruction _ _ => 3
  | .memoryFault _ _ => 4
  | .exit _ _ => 5
  | .unimplemented _ => 6

/-- The reference code of an outcome (rule R1100). -/
def outcomeCode (o : StepOutcome) : Nat :=
  match o with
  | .next => 0
  | .continueAt _ => 1
  | .halted h => haltCode h

/-- The instruction issues an explicit redirect in this state: a jump, or a branch whose condition holds (rule R504). A
compressed form does as its expansion (rule R503). -/
def redirects (i : Instr) (s : State) : Bool :=
  match expand i with
  | .jal _ _ => true
  | .jalr _ _ _ => true
  | .beq rs1 rs2 _ => condEq (s.getX rs1) (s.getX rs2)
  | .bne rs1 rs2 _ => condNe (s.getX rs1) (s.getX rs2)
  | .blt rs1 rs2 _ => condLt (s.getX rs1) (s.getX rs2)
  | .bge rs1 rs2 _ => condGe (s.getX rs1) (s.getX rs2)
  | .bltu rs1 rs2 _ => condLtu (s.getX rs1) (s.getX rs2)
  | .bgeu rs1 rs2 _ => condGeu (s.getX rs1) (s.getX rs2)
  | _ => false

/-- The state a halting step leaves: the state it started in, but for an exit, which keeps the collaborator's effects
(rules R505, R1011). -/
def haltState (h : Fault) (s : State) : State :=
  match h with
  | .exit _ t => t
  | _ => s

/-- `step(s) -> (s', outcome)` by the spec's names (rule R500; assumption log 11): none only where the model refuses. -/
def stepOutcome (s : State) : Option (State × StepOutcome) :=
  match fetchDecode s with
  | .error h => some (haltState h s, .halted h)
  | .ok i =>
    match exec i s with
    | .next t => some (t, if redirects i s then .continueAt t.pc else .next)
    | .fault h => some (haltState h s, .halted h)
    | .refused _ => none

/-- How a run under a step limit ended (rule R521). -/
inductive RunResult where
  /-- The run ended: the halt outcome and the state after it (rule R522). -/
  | ended (reason : Fault) (after : State)
  /-- The step limit was reached first: not an outcome of the block. -/
  | notFinished (now : State)
deriving DecidableEq, Repr

/-- At most `fuel` steps of the run loop (rule R520). -/
def runFrom (fuel : Nat) (s : State) : RunResult :=
  match fuel with
  | 0 => .notFinished s
  | fuel + 1 =>
    match step s with
    | .next t => runFrom fuel t
    | .fault h => .ended h (haltState h s)
    | .refused _ => .notFinished s

/-- `run(entry)` (rules R520, R1202): `pc <- entry`, then the loop. -/
def run (fuel : Nat) (entry : Word) (s : State) : RunResult := runFrom fuel { s with pc := entry }

/-- `construct(init, provider)` (rule R1200): the registers and the regions with their bytes are launch inputs, the
reservation is none. The pc has no value until `run` (rule R140); 0 stands there (assumption log 4). -/
def construct (x : Vector Word 31) (f : Vector Word 32) (regions : List Region) (mem : Memory) (cfg : Config)
    (syscalls : List SyscallAnswer) : State :=
  { pc := 0, x := x, f := f, regions := regions, mem := mem, resv := none, cfg := cfg, syscalls := syscalls }

end Sys2Proof.Machine
end

