-- ==== Sys2Proof/Safety.lean ====
section
/-! DEFINITION. What a well-formed state is (10_state.md rules R110, R111, R113) and what counts as a safe step: one that does
not halt. -/

namespace Sys2Proof.Machine

/-- A region has at least one byte and does not wrap (rule R110). -/
def Region.wf (R : Region) : Bool := decide (0 < R.length.toNat) && decide (R.limit ≤ 2 ^ 64)

/-- The region table: every region well formed, by rising base, no two overlapping (rule R111). -/
def tableWf (rs : List Region) : Bool :=
  match rs with
  | [] => true
  | R :: rest =>
    R.wf && (rest.all fun Q => decide (R.limit ≤ Q.base.toNat)) && tableWf rest

/-- Some region of the table contains the address. -/
def mapped (rs : List Region) (a : Nat) : Bool :=
  rs.any fun R => decide (R.base.toNat ≤ a) && decide (a < R.limit)

/-- The address space is well formed: the region table keeps its invariant (rule R111), memory is canonical, and every listed byte
lies in a region (assumption log 6). -/
def State.wf (s : State) : Bool :=
  tableWf s.regions && s.mem.wf && s.mem.all fun c => mapped s.regions c.1

/-- The reservation is as rule R113 has it: a machine with no LR in `IMPLEMENTED_ATOMICS` has none, so that the field
carries nothing where the spec gives the state no such field (assumption log 10). -/
def State.resvWf (s : State) : Bool := s.cfg.hasReservation || s.resv.isNone

/-- The invariant every step keeps. -/
abbrev State.Inv (s : State) : Prop := s.wf = true ∧ s.resvWf = true

/-- The step continues the run: it neither halts nor is refused (rule R130). -/
def continues (s : State) : Bool :=
  match step s with
  | .next _ => true
  | .fault _ => false
  | .refused _ => false

/-- `k` steps in a row continue. -/
def continuesFor (k : Nat) (s : State) : Bool :=
  match k with
  | 0 => true
  | k + 1 =>
    match step s with
    | .next t => continuesFor k t
    | .fault _ => false
    | .refused _ => false

end Sys2Proof.Machine
end

