-- ==== Sys2Proof/WellFormed.lean ====
section
/-! DEFINITION. Which terms of `Instr` an encoding exists for: the ranges 30_encoding.md gives each operand (rules R310
to R315 for full instructions, rules R410 to R451 for compressed ones). Register numbers, shift amounts and the small
fields fill their types, so only immediates, compressed register fields and the compressed reserved cases are checked. -/

namespace Sys2Proof

/-- The immediate is the sign extension of its `n` bits from bit `lo` up, with `lo` zero bits below: the values a signed
field of `n` bits scaled by 2^lo can hold (rules R310 to R314). -/
def isSext (lo n : Nat) (imm : Word) : Bool :=
  imm == (imm.extractLsb' lo n ++ 0#lo).signExtend 64

/-- The immediate is the zero extension of its `n` bits from bit `lo` up, with `lo` zero bits below: the values an
unsigned field of `n` bits scaled by 2^lo can hold (rules R410 to R451). -/
def isZext (lo n : Nat) (imm : Word) : Bool :=
  imm == (imm.extractLsb' lo n ++ 0#lo).setWidth 64

/-- A register a 3-bit compressed field can name: x8 to x15 or f8 to f15 (rule R400). -/
def isCReg (r : BitVec 5) : Bool := r.extractLsb' 3 2 == 0b01#2

/-- The instruction has an encoding. -/
def Instr.wf (i : Instr) : Bool :=
  match i with
  | .lui _ imm | .auipc _ imm => isSext 12 20 imm
  | .jal _ imm => isSext 1 20 imm
  | .jalr _ _ imm | .lb _ _ imm | .lh _ _ imm | .lw _ _ imm | .ld _ _ imm | .lbu _ _ imm | .lhu _ _ imm
  | .lwu _ _ imm | .sb _ _ imm | .sh _ _ imm | .sw _ _ imm | .sd _ _ imm | .addi _ _ imm | .slti _ _ imm
  | .sltiu _ _ imm | .xori _ _ imm | .ori _ _ imm | .andi _ _ imm | .addiw _ _ imm | .flw _ _ imm | .fsw _ _ imm
  | .fld _ _ imm | .fsd _ _ imm => isSext 0 12 imm
  | .beq _ _ imm | .bne _ _ imm | .blt _ _ imm | .bge _ _ imm | .bltu _ _ imm | .bgeu _ _ imm => isSext 1 12 imm
  | .cAddi4spn rd imm => isCReg rd && isZext 2 8 imm && imm != 0
  | .cFld rd rs1 imm | .cLd rd rs1 imm => isCReg rd && isCReg rs1 && isZext 3 5 imm
  | .cLw rd rs1 imm => isCReg rd && isCReg rs1 && isZext 2 5 imm
  | .cFsd rs1 rs2 imm | .cSd rs1 rs2 imm => isCReg rs1 && isCReg rs2 && isZext 3 5 imm
  | .cSw rs1 rs2 imm => isCReg rs1 && isCReg rs2 && isZext 2 5 imm
  | .cAddi rd imm => isSext 0 6 imm && !(rd == 0 && imm == 0)
  | .cAddiw rd imm => rd != 0 && isSext 0 6 imm
  | .cLi _ imm => isSext 0 6 imm
  | .cAddi16sp imm => isSext 4 6 imm && imm != 0
  | .cLui rd imm => rd != 2 && isSext 12 6 imm && imm != 0
  | .cSrli rd _ | .cSrai rd _ => isCReg rd
  | .cAndi rd imm => isCReg rd && isSext 0 6 imm
  | .cSub rd rs2 | .cXor rd rs2 | .cOr rd rs2 | .cAnd rd rs2 | .cSubw rd rs2 | .cAddw rd rs2
    => isCReg rd && isCReg rs2
  | .cJ imm => isSext 1 11 imm
  | .cBeqz rs1 imm | .cBnez rs1 imm => isCReg rs1 && isSext 1 8 imm
  | .cFldsp _ imm | .cFsdsp _ imm | .cSdsp _ imm => isZext 3 6 imm
  | .cLwsp rd imm => rd != 0 && isZext 2 6 imm
  | .cLdsp rd imm => rd != 0 && isZext 3 6 imm
  | .cJr rs1 | .cJalr rs1 => rs1 != 0
  | .cMv _ rs2 | .cAdd _ rs2 => rs2 != 0
  | .cSwsp _ imm => isZext 2 6 imm
  | .slli _ _ _ | .srli _ _ _ | .srai _ _ _ | .add _ _ _ | .sub _ _ _ | .sll _ _ _ | .slt _ _ _ | .sltu _ _ _
  | .xor _ _ _ | .srl _ _ _ | .sra _ _ _ | .or _ _ _ | .and _ _ _ | .fence _ _ _ _ _ | .ecall | .ebreak
  | .slliw _ _ _ | .srliw _ _ _ | .sraiw _ _ _ | .addw _ _ _ | .subw _ _ _ | .sllw _ _ _ | .srlw _ _ _
  | .sraw _ _ _ | .mul _ _ _ | .mulh _ _ _ | .mulhsu _ _ _ | .mulhu _ _ _ | .div _ _ _ | .divu _ _ _
  | .rem _ _ _ | .remu _ _ _ | .mulw _ _ _ | .divw _ _ _ | .divuw _ _ _ | .remw _ _ _ | .remuw _ _ _
  | .lrW _ _ _ _ | .scW _ _ _ _ _ | .amoswapW _ _ _ _ _ | .amoaddW _ _ _ _ _ | .amoxorW _ _ _ _ _
  | .amoandW _ _ _ _ _ | .amoorW _ _ _ _ _ | .amominW _ _ _ _ _ | .amomaxW _ _ _ _ _ | .amominuW _ _ _ _ _
  | .amomaxuW _ _ _ _ _ | .lrD _ _ _ _ | .scD _ _ _ _ _ | .amoswapD _ _ _ _ _ | .amoaddD _ _ _ _ _
  | .amoxorD _ _ _ _ _ | .amoandD _ _ _ _ _ | .amoorD _ _ _ _ _ | .amominD _ _ _ _ _ | .amomaxD _ _ _ _ _
  | .amominuD _ _ _ _ _ | .amomaxuD _ _ _ _ _ | .fmaddS _ _ _ _ _ | .fmsubS _ _ _ _ _ | .fnmsubS _ _ _ _ _
  | .fnmaddS _ _ _ _ _ | .fmaddD _ _ _ _ _ | .fmsubD _ _ _ _ _ | .fnmsubD _ _ _ _ _ | .fnmaddD _ _ _ _ _
  | .faddS _ _ _ _ | .fsubS _ _ _ _ | .fmulS _ _ _ _ | .fdivS _ _ _ _ | .fsqrtS _ _ _ | .fsgnjS _ _ _
  | .fsgnjnS _ _ _ | .fsgnjxS _ _ _ | .fminS _ _ _ | .fmaxS _ _ _ | .fcvtWS _ _ _ | .fcvtWUS _ _ _
  | .fcvtLS _ _ _ | .fcvtLUS _ _ _ | .fcvtSW _ _ _ | .fcvtSWU _ _ _ | .fcvtSL _ _ _ | .fcvtSLU _ _ _
  | .feqS _ _ _ | .fltS _ _ _ | .fleS _ _ _ | .fclassS _ _ | .fmvXW _ _ | .fmvWX _ _ | .faddD _ _ _ _
  | .fsubD _ _ _ _ | .fmulD _ _ _ _ | .fdivD _ _ _ _ | .fsqrtD _ _ _ | .fsgnjD _ _ _ | .fsgnjnD _ _ _
  | .fsgnjxD _ _ _ | .fminD _ _ _ | .fmaxD _ _ _ | .fcvtWD _ _ _ | .fcvtWUD _ _ _ | .fcvtLD _ _ _
  | .fcvtLUD _ _ _ | .fcvtDW _ _ _ | .fcvtDWU _ _ _ | .fcvtDL _ _ _ | .fcvtDLU _ _ _ | .feqD _ _ _ | .fltD _ _ _
  | .fleD _ _ _ | .fclassD _ _ | .fmvXD _ _ | .fmvDX _ _ | .fcvtSD _ _ _ | .fcvtDS _ _ _ | .cNop | .cSlli _ _
  | .cEbreak => true

/-- The instruction has an encoding, as a proposition. -/
abbrev Instr.WellFormed (i : Instr) : Prop := i.wf = true

end Sys2Proof
end

