-- ==== Sys2Proof/Certificates/Slice0/Obligations.lean ====
section
/-! DEFINITION. The statements for the provers, and the vocabulary they are written in: the frame of an instruction (what
its next state leaves as it was) and the values the spec gives, said with integers where the model computes with bits. -/

namespace Sys2Proof.Claims

open Sys2Proof.Machine

/-! ### Frames -/

/-- Every byte of memory reads as before. -/
def SameBytes (s t : State) : Prop := ∀ a, t.mem.byte a = s.mem.byte a

/-- Every byte of memory outside `lo .. lo+n-1` reads as before. -/
def SameBytesOutside (s t : State) (lo n : Nat) : Prop := ∀ a, a < lo ∨ lo + n ≤ a → t.mem.byte a = s.mem.byte a

/-- The `n` bytes from `lo` up read as the low bytes of `v`, least significant first (rule R213). -/
def StoredBytes (t : State) (lo n : Nat) (v : Word) : Prop := ∀ k, k < n → t.mem.byte (lo + k) = v.extractLsb' (8 * k) 8

/-- Every integer register reads as before. -/
def SameX (s t : State) : Prop := ∀ r : XReg, t.getX r = s.getX r

/-- Every floating register reads as before. -/
def SameF (s t : State) : Prop := ∀ r : FReg, t.getF r = s.getF r

/-- `rd` reads as `v` (as before if `rd` is x0), every other integer register reads as before (rule R33). -/
def OnlyX (s t : State) (rd : XReg) (v : Word) : Prop :=
  ∀ r : XReg, t.getX r = if r = rd ∧ rd ≠ 0 then v else s.getX r

/-- `rd` reads as `v`, every other floating register reads as before. -/
def OnlyF (s t : State) (rd : FReg) (v : Word) : Prop := ∀ r : FReg, t.getF r = if r = rd then v else s.getF r

/-- The region table, the parameters and the collaborator's answers are as before. -/
def SameTables (s t : State) : Prop := t.regions = s.regions ∧ t.cfg = s.cfg ∧ t.syscalls = s.syscalls

/-- Memory and regions of `t` are what `ops` make of those of `s`, done after the reservation is cleared and the answer is
taken (rule R1011); `rest` are the answers left, and the parameters are as before. -/
def AfterEffects (s t : State) (ops : List GuestOp) (rest : List SyscallAnswer) : Prop :=
  t.mem = (applyGuestOps ops { s with resv := none, syscalls := rest }).mem ∧
  t.regions = (applyGuestOps ops { s with resv := none, syscalls := rest }).regions ∧
  t.resv = none ∧ t.syscalls = rest ∧ t.cfg = s.cfg

/-- ECALL completes at `s` with `v` in x10 after the effects `ops`: the pc advances by 4, every other register is as
before. -/
def CallReturns (s : State) (ops : List GuestOp) (rest : List SyscallAnswer) (v : Word) : Prop :=
  ∃ t, exec .ecall s = .next t ∧ OnlyX s t 10 v ∧ SameF s t ∧ t.pc = s.pc + 4 ∧ AfterEffects s t ops rest

/-- ECALL ends the run at `s` with the code `c` after the effects `ops`: every register and the pc are as before. -/
def CallExits (s : State) (ops : List GuestOp) (rest : List SyscallAnswer) (c : Word) : Prop :=
  ∃ t, exec .ecall s = .fault (.exit c t) ∧ SameX s t ∧ SameF s t ∧ t.pc = s.pc ∧ AfterEffects s t ops rest

/-- `i` completes at `s`: rd gets `v`, the pc becomes `pc`, all else is as before. -/
def WritesX (i : Instr) (s : State) (rd : XReg) (v pc : Word) : Prop :=
  ∃ t, exec i s = .next t ∧ OnlyX s t rd v ∧ t.pc = pc ∧ SameF s t ∧ SameBytes s t ∧ t.resv = s.resv ∧ SameTables s t

/-- `i` completes at `s`: the floating register rd gets `v`, the pc becomes `pc`, all else is as before. -/
def WritesF (i : Instr) (s : State) (rd : FReg) (v pc : Word) : Prop :=
  ∃ t, exec i s = .next t ∧ OnlyF s t rd v ∧ t.pc = pc ∧ SameX s t ∧ SameBytes s t ∧ t.resv = s.resv ∧ SameTables s t

/-- `i` completes at `s`: the pc becomes `pc`, all else is as before. -/
def OnlyPc (i : Instr) (s : State) (pc : Word) : Prop :=
  ∃ t, exec i s = .next t ∧ t.pc = pc ∧ SameX s t ∧ SameF s t ∧ SameBytes s t ∧ t.resv = s.resv ∧ SameTables s t

/-- `i` completes at `s`: the `n` bytes at address `a` become the low bytes of `v`, the pc becomes `pc`, all else is as
before. -/
def Stores (i : Instr) (s : State) (a : Word) (n : Nat) (v pc : Word) : Prop :=
  ∃ t, exec i s = .next t ∧ StoredBytes t a.toNat n v ∧ SameBytesOutside s t a.toNat n ∧ t.pc = pc ∧ SameX s t ∧
    SameF s t ∧ t.resv = s.resv ∧ SameTables s t

/-- `i` ends at `s` with `MemoryFault(dir, a)`. -/
def Faults (i : Instr) (s : State) (dir : Direction) (a : Word) : Prop := exec i s = .fault (.memoryFault dir a)

/-! ### Admission (rule R211) -/

/-- The access is admitted for reading: all its bytes lie in the one region that holds its address. -/
def ReadAdmitted (s : State) (a : Word) (n : Nat) : Prop :=
  ∃ R, regionOf s.regions a = some R ∧ (a - R.base).toNat + n ≤ R.length.toNat

/-- The access is admitted for writing: in addition the region is writable. -/
def WriteAdmitted (s : State) (a : Word) (n : Nat) : Prop :=
  ∃ R, regionOf s.regions a = some R ∧ (a - R.base).toNat + n ≤ R.length.toNat ∧ R.writable = true

/-! ### Values (rules R31, R32, R212) -/

/-- The byte k places above a. -/
def byteAt (s : State) (a : Word) (k : Nat) : Byte := s.mem.byte (a.toNat + k)

/-- The 16-bit value at a: the byte at a is the least significant. -/
def halfAt (s : State) (a : Word) : BitVec 16 := byteAt s a 1 ++ byteAt s a 0

/-- The 32-bit value at a. -/
def wordAt (s : State) (a : Word) : BitVec 32 := byteAt s a 3 ++ byteAt s a 2 ++ byteAt s a 1 ++ byteAt s a 0

/-- The 64-bit value at a. -/
def doubleAt (s : State) (a : Word) : Word :=
  byteAt s a 7 ++ byteAt s a 6 ++ byteAt s a 5 ++ byteAt s a 4 ++ byteAt s a 3 ++ byteAt s a 2 ++ byteAt s a 1 ++ byteAt s a 0

/-- The signed 32-bit integer of the low half of a register. -/
def lowInt (v : Word) : Int := (v.setWidth 32).toInt

/-- The unsigned 32-bit integer of the low half of a register. -/
def lowNat (v : Word) : Nat := v.toNat % 2 ^ 32

/-- The signed 32-bit integer congruent to x: the value of `sext_32(x mod 2^32)`. -/
def sext32Int (x : Int) : Int := x.bmod (2 ^ 32)

/-- The 64-bit pattern with all bits one. -/
def ones : Word := 0xFFFFFFFFFFFFFFFF

/-! ### Families -/

/-- The 52 floating-point instructions of rule R939. -/
def unimplementedFp (i : Instr) : Bool :=
  match i with
  | .fmaddS _ _ _ _ _ => true
  | .fmsubS _ _ _ _ _ => true
  | .fnmsubS _ _ _ _ _ => true
  | .fnmaddS _ _ _ _ _ => true
  | .fmaddD _ _ _ _ _ => true
  | .fmsubD _ _ _ _ _ => true
  | .fnmsubD _ _ _ _ _ => true
  | .fnmaddD _ _ _ _ _ => true
  | .faddS _ _ _ _ => true
  | .fsubS _ _ _ _ => true
  | .fmulS _ _ _ _ => true
  | .fdivS _ _ _ _ => true
  | .fsqrtS _ _ _ => true
  | .fsgnjS _ _ _ => true
  | .fsgnjnS _ _ _ => true
  | .fsgnjxS _ _ _ => true
  | .fminS _ _ _ => true
  | .fmaxS _ _ _ => true
  | .fcvtWS _ _ _ => true
  | .fcvtWUS _ _ _ => true
  | .fcvtLS _ _ _ => true
  | .fcvtLUS _ _ _ => true
  | .fcvtSW _ _ _ => true
  | .fcvtSWU _ _ _ => true
  | .fcvtSL _ _ _ => true
  | .fcvtSLU _ _ _ => true
  | .feqS _ _ _ => true
  | .fltS _ _ _ => true
  | .fleS _ _ _ => true
  | .fclassS _ _ => true
  | .faddD _ _ _ _ => true
  | .fsubD _ _ _ _ => true
  | .fmulD _ _ _ _ => true
  | .fdivD _ _ _ _ => true
  | .fsqrtD _ _ _ => true
  | .fsgnjD _ _ _ => true
  | .fsgnjnD _ _ _ => true
  | .fsgnjxD _ _ _ => true
  | .fminD _ _ _ => true
  | .fmaxD _ _ _ => true
  | .fcvtWD _ _ _ => true
  | .fcvtWUD _ _ _ => true
  | .fcvtLD _ _ _ => true
  | .fcvtLUD _ _ _ => true
  | .fcvtDW _ _ _ => true
  | .fcvtDWU _ _ _ => true
  | .fcvtDL _ _ _ => true
  | .fcvtDLU _ _ _ => true
  | .feqD _ _ _ => true
  | .fltD _ _ _ => true
  | .fleD _ _ _ => true
  | .fclassD _ _ => true
  | _ => false

/-- An atomic instruction's name in `IMPLEMENTED_ATOMICS`, its width in bytes and its address register. -/
def atomicOf (i : Instr) : Option (AtomicOp × Nat × XReg) :=
  match i with
  | .lrW _ rs1 _ _ => some (.lrW, 4, rs1)
  | .scW _ rs1 _ _ _ => some (.scW, 4, rs1)
  | .amoswapW _ rs1 _ _ _ => some (.amoswapW, 4, rs1)
  | .amoaddW _ rs1 _ _ _ => some (.amoaddW, 4, rs1)
  | .amoxorW _ rs1 _ _ _ => some (.amoxorW, 4, rs1)
  | .amoandW _ rs1 _ _ _ => some (.amoandW, 4, rs1)
  | .amoorW _ rs1 _ _ _ => some (.amoorW, 4, rs1)
  | .amominW _ rs1 _ _ _ => some (.amominW, 4, rs1)
  | .amomaxW _ rs1 _ _ _ => some (.amomaxW, 4, rs1)
  | .amominuW _ rs1 _ _ _ => some (.amominuW, 4, rs1)
  | .amomaxuW _ rs1 _ _ _ => some (.amomaxuW, 4, rs1)
  | .lrD _ rs1 _ _ => some (.lrD, 8, rs1)
  | .scD _ rs1 _ _ _ => some (.scD, 8, rs1)
  | .amoswapD _ rs1 _ _ _ => some (.amoswapD, 8, rs1)
  | .amoaddD _ rs1 _ _ _ => some (.amoaddD, 8, rs1)
  | .amoxorD _ rs1 _ _ _ => some (.amoxorD, 8, rs1)
  | .amoandD _ rs1 _ _ _ => some (.amoandD, 8, rs1)
  | .amoorD _ rs1 _ _ _ => some (.amoorD, 8, rs1)
  | .amominD _ rs1 _ _ _ => some (.amominD, 8, rs1)
  | .amomaxD _ rs1 _ _ _ => some (.amomaxD, 8, rs1)
  | .amominuD _ rs1 _ _ _ => some (.amominuD, 8, rs1)
  | .amomaxuD _ rs1 _ _ _ => some (.amomaxuD, 8, rs1)
  | _ => none

/-- An AMO: it reads and then writes (rule R1055). -/
def isAmo (i : Instr) : Bool :=
  match i with
  | .amoswapW _ _ _ _ _ => true
  | .amoaddW _ _ _ _ _ => true
  | .amoxorW _ _ _ _ _ => true
  | .amoandW _ _ _ _ _ => true
  | .amoorW _ _ _ _ _ => true
  | .amominW _ _ _ _ _ => true
  | .amomaxW _ _ _ _ _ => true
  | .amominuW _ _ _ _ _ => true
  | .amomaxuW _ _ _ _ _ => true
  | .amoswapD _ _ _ _ _ => true
  | .amoaddD _ _ _ _ _ => true
  | .amoxorD _ _ _ _ _ => true
  | .amoandD _ _ _ _ _ => true
  | .amoorD _ _ _ _ _ => true
  | .amominD _ _ _ _ _ => true
  | .amomaxD _ _ _ _ _ => true
  | .amominuD _ _ _ _ _ => true
  | .amomaxuD _ _ _ _ _ => true
  | _ => false

/-- The instructions that can change memory: the stores, SC, the AMOs and ECALL. -/
def storesMemory (i : Instr) : Bool :=
  match i with
  | .sb _ _ _ => true | .sh _ _ _ => true | .sw _ _ _ => true | .sd _ _ _ => true
  | .fsw _ _ _ => true | .fsd _ _ _ => true
  | .cSw _ _ _ => true | .cSd _ _ _ => true | .cFsd _ _ _ => true
  | .cSwsp _ _ => true | .cSdsp _ _ => true | .cFsdsp _ _ => true
  | .scW _ _ _ _ _ => true | .scD _ _ _ _ _ => true
  | .ecall => true
  | i => isAmo i

/-- The instructions that read or write the reservation (rule R1051). -/
def touchesReservation (i : Instr) : Bool :=
  match i with
  | .lrW _ _ _ _ => true | .lrD _ _ _ _ => true
  | .scW _ _ _ _ _ => true | .scD _ _ _ _ _ => true
  | .ecall => true
  | _ => false

/-! ### Atomics -/

/-- The AMO `i` completes at `s` (rule R1055): the `n` bytes at `a` become the low bytes of `new`, rd gets `old`, the pc
advances by 4, all else is as before. -/
def AmoEffect (i : Instr) (s : State) (rd : XReg) (a : Word) (n : Nat) (old new : Word) : Prop :=
  ∃ t, exec i s = .next t ∧ OnlyX s t rd old ∧ StoredBytes t a.toNat n new ∧ SameBytesOutside s t a.toNat n ∧
    t.pc = s.pc + 4 ∧ SameF s t ∧ t.resv = s.resv ∧ SameTables s t

/-- The SC `i` succeeds at `s`: the `n` bytes at `a` become the low bytes of `v`, rd gets 0, the reservation is cleared. -/
def ScSucceeds (i : Instr) (s : State) (rd : XReg) (a : Word) (n : Nat) (v : Word) : Prop :=
  ∃ t, exec i s = .next t ∧ OnlyX s t rd 0 ∧ StoredBytes t a.toNat n v ∧ SameBytesOutside s t a.toNat n ∧
    t.pc = s.pc + 4 ∧ SameF s t ∧ t.resv = none ∧ SameTables s t

/-- The SC `i` fails at `s`: no byte changes, rd gets 1, the reservation is cleared. -/
def ScFails (i : Instr) (s : State) (rd : XReg) : Prop :=
  ∃ t, exec i s = .next t ∧ OnlyX s t rd 1 ∧ SameBytes s t ∧ t.pc = s.pc + 4 ∧ SameF s t ∧ t.resv = none ∧
    SameTables s t

/-! ### Floating-point values (rule R902), as exact integers in units of 2^-1074 -/

/-- The exponent field of a binary64 pattern. -/
def exponentOf (d : Word) : Nat := d.toNat / 2 ^ 52 % 2 ^ 11

/-- The fraction field of a binary64 pattern. -/
def fractionOf (d : Word) : Nat := d.toNat % 2 ^ 52

/-- The magnitude of a finite binary64 pattern. -/
def scaled64 (d : Word) : Nat :=
  if exponentOf d = 0 then fractionOf d else (2 ^ 52 + fractionOf d) * 2 ^ (exponentOf d - 1)

/-- The magnitude of the finite binary32 pattern whose exponent and fraction bits are `m`; at the infinity's bits
0x7F800000 it is 2^128, the first magnitude out of range. -/
def scaled32 (m : Nat) : Nat :=
  (if m / 2 ^ 23 = 0 then m else (2 ^ 23 + m % 2 ^ 23) * 2 ^ (m / 2 ^ 23 - 1)) * 2 ^ 925

/-- The binary32 pattern of a sign and magnitude bits, NaN-boxed. -/
def boxed (negative : Bool) (m : Nat) : Word :=
  (0xFFFFFFFF : BitVec 32) ++ (BitVec.ofBool negative ++ BitVec.ofNat 31 m)

/-- The register holds a NaN-boxed single (rule R105). -/
def isBoxed (v : Word) : Bool := v.toNat / 2 ^ 32 == 0xFFFFFFFF

/-- The exponent and fraction bits of the single in the low half of a register. -/
def magnitudeOf (v : Word) : Nat := v.toNat % 2 ^ 31

/-- A magnitude too large for binary32 becomes infinity rather than the largest finite value (rule R930). -/
def overflowsToInfinity (rm : BitVec 3) (negative : Bool) : Bool :=
  match rm.toNat with
  | 1 => false
  | 2 => negative
  | 3 => !negative
  | _ => true

/-- Of the neighbours `q` and `q + 1` of a magnitude `x` between them, the direction of `rm` takes the upper one: to
nearest by the distances, ties to the even one (RNE, dyn) or up (RMM); up or down by the sign (RDN, RUP) unless `x` is
exactly the lower one; never (RTZ). -/
def takesUpper (rm : BitVec 3) (negative : Bool) (q x : Nat) : Prop :=
  match rm.toNat with
  | 1 => False
  | 2 => negative = true ∧ x ≠ scaled32 q
  | 3 => negative = false ∧ x ≠ scaled32 q
  | 4 => scaled32 q + scaled32 (q + 1) ≤ 2 * x
  | _ => scaled32 q + scaled32 (q + 1) < 2 * x ∨ (scaled32 q + scaled32 (q + 1) = 2 * x ∧ q % 2 = 1)

/-! ### Pages -/

/-- `round_up(n)` (rule R204): the least multiple of the page size that is at least `n`. -/
def roundedLength (s : State) (n : Word) : Nat :=
  (n.toNat + max s.cfg.hostPageSize 4096 - 1) / max s.cfg.hostPageSize 4096 * max s.cfg.hostPageSize 4096

end Sys2Proof.Claims

open Sys2Proof Sys2Proof.Machine Sys2Proof.Claims

/-- Eight words of the spec, with every kind of field among them, decode to the instructions they stand for, and the all-
zero halfword and the all-ones word to Invalid; the compressed word 0x1101 and the full word of its expansion decode
to equal typed instructions of lengths 2 and 4, and the row decoder tells them apart. (95_test_vectors.md section 2,
30_encoding.md) -/
def Obligations.DecodesSpecWords : Prop :=
  decode [0x13, 0x05, 0xB0, 0x07] = some (.instr (.addi 10 0 123), 4) ∧
  decode [0x01, 0x11] = some (.instr (.addi 2 2 (-32)), 2) ∧
  decode [0x13, 0x01, 0x01, 0xFE] = some (.instr (.addi 2 2 (-32)), 4) ∧
  decodeRow [0x01, 0x11] = some (.instr (.cAddi 2 (-32)), 2) ∧
  decodeRow [0x13, 0x01, 0x01, 0xFE] = some (.instr (.addi 2 2 (-32)), 4) ∧
  decode [0xE3, 0x1F, 0xB5, 0xFE] = some (.instr (.bne 10 11 (-2)), 4) ∧
  decode [0x37, 0x05, 0x00, 0x80] = some (.instr (.lui 10 0xFFFFFFFF80000000), 4) ∧
  decode [0xA3, 0x90, 0xC5, 0x00] = some (.instr (.sh 11 12 1), 4) ∧
  decode [0x2F, 0xA5, 0xC5, 0x18] = some (.instr (.scW 10 11 12 0 0), 4) ∧
  decode [0x53, 0xF5, 0x15, 0x40] = some (.instr (.fcvtSD 10 11 7), 4) ∧
  decode [0x01, 0xB0] = some (.instr (.jal 0 (-2048)), 2) ∧
  decodeRow [0x01, 0xB0] = some (.instr (.cJ (-2048)), 2) ∧
  decode [0x00, 0x00] = some (.invalid 0 2, 2) ∧
  decode [0xFF, 0xFF, 0xFF, 0xFF] = some (.invalid 0xFFFFFFFF 4, 4)

/-- For every well-formed instruction of all 186 constructors, with every operand value its encoding admits, decoding its
encoded bytes to a row of the table gives the instruction and its length, and decoding them to the typed instruction
of rule R301 gives its expansion and its own length; an expansion is never a compressed form. (30_encoding.md rule
R301, 30_encoding.md rules R304 and R310 to R345, 30_encoding.md rules R400 to R451) -/
def Obligations.DecodeOfEncode : Prop :=
  (∀ i : Instr, i.WellFormed →
    decodeRow (codeBytes (encode i)) = some (.instr i, instrLen i) ∧
    decode (codeBytes (encode i)) = some (.instr (expand i), instrLen i)) ∧
  ∀ i : Instr, instrLen (expand i) = 4

/-- Whatever 32-bit or 16-bit word decodes to an instruction, the instruction is well formed and its encoding is that
word: decoding forgets no bit. (30_encoding.md rules R304 and R310 to R345, 30_encoding.md rules R400 to R451) -/
def Obligations.EncodeOfDecode : Prop :=
  (∀ (w : BitVec 32) (i : Instr), decodeFull w = .instr i → i.WellFormed ∧ encode i = .full w) ∧
  (∀ (w : BitVec 16) (i : Instr), decodeHalf w = .instr i → i.WellFormed ∧ encode i = .half w)

/-- Whenever the decoder answers, the length is 4 if the two least-significant bits of the first byte are 11 and 2
otherwise; and a 4-byte word whose bits 4 to 2 are 111 is Invalid with length 4. (R302) -/
def Obligations.LengthByLowBits : Prop :=
  (∀ (b : Byte) (rest : List Byte) (d : Decoded) (n : Nat), decode (b :: rest) = some (d, n) →
    n = if b.toNat % 4 = 3 then 4 else 2) ∧
  (∀ w : BitVec 32, w.toNat % 4 = 3 → w.toNat / 4 % 8 = 7 → decodeFull w = .invalid w 4)

/-- The decoder gives no answer exactly when the window is empty or shorter than the length its first byte announces.
(30_encoding.md rule R300) -/
def Obligations.DecodeNeedsItsBytes : Prop :=
  ∀ bs : List Byte, decode bs = none ↔ bs.length < (match bs with | [] => 1 | b :: _ => if b.toNat % 4 = 3 then 4 else 2)

/-- A word of major opcode SYSTEM other than 0x00000073 and 0x00100073 decodes to Invalid with the raw word: no CSR, MRET,
SRET, WFI or SFENCE.VMA exists. (R341) -/
def Obligations.SystemWordsInvalid : Prop :=
  ∀ w : BitVec 32, w.toNat % 128 = 0x73 → w ≠ 0x00000073 → w ≠ 0x00100073 → decodeFull w = .invalid w 4

/-- Reading x0 gives 0, writing x0 changes nothing, and writing another register changes what that register reads and no
other register. (R101) -/
def Obligations.ZeroRegister : Prop :=
  ∀ (s : State) (v : Word),
    s.getX 0 = 0 ∧ s.setX 0 v = s ∧
    ∀ r : XReg, r ≠ 0 → (s.setX r v).getX r = v ∧ ∀ q : XReg, q ≠ r → (s.setX r v).getX q = s.getX q

/-- In every state these complete: rd gets the sum or difference modulo 2^64, the bitwise result, or 1 or 0 by the signed
or unsigned comparison of the integers; the pc advances by 4; all else is unchanged. (41_integer.md rules R601, R602,
R604 to R606, R609, R610, 41_integer.md rule R630) -/
def Obligations.IntegerRegisterResults : Prop :=
  ∀ (s : State) (rd rs1 rs2 : XReg),
    (∃ v, WritesX (.add rd rs1 rs2) s rd v (s.pc + 4) ∧
      v.toNat = ((s.getX rs1).toNat + (s.getX rs2).toNat) % 2 ^ 64) ∧
    (∃ v, WritesX (.sub rd rs1 rs2) s rd v (s.pc + 4) ∧
      v.toInt = ((s.getX rs1).toInt - (s.getX rs2).toInt).bmod (2 ^ 64)) ∧
    WritesX (.xor rd rs1 rs2) s rd (s.getX rs1 ^^^ s.getX rs2) (s.pc + 4) ∧
    WritesX (.or rd rs1 rs2) s rd (s.getX rs1 ||| s.getX rs2) (s.pc + 4) ∧
    WritesX (.and rd rs1 rs2) s rd (s.getX rs1 &&& s.getX rs2) (s.pc + 4) ∧
    WritesX (.slt rd rs1 rs2) s rd (if (s.getX rs1).toInt < (s.getX rs2).toInt then 1 else 0) (s.pc + 4) ∧
    WritesX (.sltu rd rs1 rs2) s rd (if (s.getX rs1).toNat < (s.getX rs2).toNat then 1 else 0) (s.pc + 4)

/-- In every state these complete: a left shift multiplies by 2^n modulo 2^64, a logical right shift divides the unsigned
value, an arithmetic right shift divides the signed value rounding down, with n the low 6 bits of rs2 or the shamt;
the pc advances by 4; all else is unchanged. (41_integer.md rules R603, R607, R608, R617 to R619, 41_integer.md rules
R632, R633) -/
def Obligations.ShiftResults : Prop :=
  ∀ (s : State) (rd rs1 rs2 : XReg) (shamt : BitVec 6),
    (∃ v, WritesX (.sll rd rs1 rs2) s rd v (s.pc + 4) ∧
      v.toNat = (s.getX rs1).toNat * 2 ^ ((s.getX rs2).toNat % 64) % 2 ^ 64) ∧
    (∃ v, WritesX (.srl rd rs1 rs2) s rd v (s.pc + 4) ∧
      v.toNat = (s.getX rs1).toNat / 2 ^ ((s.getX rs2).toNat % 64)) ∧
    (∃ v, WritesX (.sra rd rs1 rs2) s rd v (s.pc + 4) ∧
      v.toInt = (s.getX rs1).toInt / 2 ^ ((s.getX rs2).toNat % 64)) ∧
    (∃ v, WritesX (.slli rd rs1 shamt) s rd v (s.pc + 4) ∧
      v.toNat = (s.getX rs1).toNat * 2 ^ shamt.toNat % 2 ^ 64) ∧
    (∃ v, WritesX (.srli rd rs1 shamt) s rd v (s.pc + 4) ∧ v.toNat = (s.getX rs1).toNat / 2 ^ shamt.toNat) ∧
    (∃ v, WritesX (.srai rd rs1 shamt) s rd v (s.pc + 4) ∧ v.toInt = (s.getX rs1).toInt / 2 ^ shamt.toNat)

/-- In every state these complete with the immediate as the 64-bit operand: SLTI compares signed and SLTIU unsigned; the
pc advances by 4; all else is unchanged. (41_integer.md rules R611 to R616) -/
def Obligations.IntegerImmediateResults : Prop :=
  ∀ (s : State) (rd rs1 : XReg) (imm : Word),
    (∃ v, WritesX (.addi rd rs1 imm) s rd v (s.pc + 4) ∧
      v.toNat = ((s.getX rs1).toNat + imm.toNat) % 2 ^ 64) ∧
    WritesX (.slti rd rs1 imm) s rd (if (s.getX rs1).toInt < imm.toInt then 1 else 0) (s.pc + 4) ∧
    WritesX (.sltiu rd rs1 imm) s rd (if (s.getX rs1).toNat < imm.toNat then 1 else 0) (s.pc + 4) ∧
    WritesX (.xori rd rs1 imm) s rd (s.getX rs1 ^^^ imm) (s.pc + 4) ∧
    WritesX (.ori rd rs1 imm) s rd (s.getX rs1 ||| imm) (s.pc + 4) ∧
    WritesX (.andi rd rs1 imm) s rd (s.getX rs1 &&& imm) (s.pc + 4)

/-- In every state the nine W forms complete: rd gets the signed 32-bit integer of the word result, computed from the low
32 bits of the sources, with shift amounts of 5 bits; the pc advances by 4; all else is unchanged. (41_integer.md
rules R620 to R628, 41_integer.md rules R631, R633) -/
def Obligations.WordResults : Prop :=
  ∀ (s : State) (rd rs1 rs2 : XReg) (imm : Word) (shamt : BitVec 5),
    (∃ v, WritesX (.addw rd rs1 rs2) s rd v (s.pc + 4) ∧
      v.toInt = sext32Int (lowNat (s.getX rs1) + lowNat (s.getX rs2))) ∧
    (∃ v, WritesX (.subw rd rs1 rs2) s rd v (s.pc + 4) ∧
      v.toInt = sext32Int (lowNat (s.getX rs1) - lowNat (s.getX rs2))) ∧
    (∃ v, WritesX (.sllw rd rs1 rs2) s rd v (s.pc + 4) ∧
      v.toInt = sext32Int (lowNat (s.getX rs1) * 2 ^ ((s.getX rs2).toNat % 32))) ∧
    (∃ v, WritesX (.srlw rd rs1 rs2) s rd v (s.pc + 4) ∧
      v.toInt = sext32Int (lowNat (s.getX rs1) / 2 ^ ((s.getX rs2).toNat % 32))) ∧
    (∃ v, WritesX (.sraw rd rs1 rs2) s rd v (s.pc + 4) ∧
      v.toInt = lowInt (s.getX rs1) / 2 ^ ((s.getX rs2).toNat % 32)) ∧
    (∃ v, WritesX (.addiw rd rs1 imm) s rd v (s.pc + 4) ∧
      v.toInt = sext32Int (lowNat (s.getX rs1) + lowNat imm)) ∧
    (∃ v, WritesX (.slliw rd rs1 shamt) s rd v (s.pc + 4) ∧
      v.toInt = sext32Int (lowNat (s.getX rs1) * 2 ^ shamt.toNat)) ∧
    (∃ v, WritesX (.srliw rd rs1 shamt) s rd v (s.pc + 4) ∧
      v.toInt = sext32Int (lowNat (s.getX rs1) / 2 ^ shamt.toNat)) ∧
    (∃ v, WritesX (.sraiw rd rs1 shamt) s rd v (s.pc + 4) ∧ v.toInt = lowInt (s.getX rs1) / 2 ^ shamt.toNat)

/-- In every state LUI writes the immediate and AUIPC the address of the instruction plus the immediate, modulo 2^64; the
pc advances by 4; all else is unchanged. (45_upper_immediate.md rules R850, R851) -/
def Obligations.UpperImmediateResults : Prop :=
  ∀ (s : State) (rd : XReg) (imm : Word),
    WritesX (.lui rd imm) s rd imm (s.pc + 4) ∧
    (∃ v, WritesX (.auipc rd imm) s rd v (s.pc + 4) ∧ v.toNat = (s.pc.toNat + imm.toNat) % 2 ^ 64)

/-- In every state these complete: MUL the low 64 bits of the product, MULH, MULHSU and MULHU the exact signed, mixed or
unsigned product divided by 2^64 rounding down, MULW the low word of the product of the low words sign-extended; the
pc advances by 4; all else is unchanged. (42_muldiv.md rules R701 to R704, R709) -/
def Obligations.MultiplyResults : Prop :=
  ∀ (s : State) (rd rs1 rs2 : XReg),
    (∃ v, WritesX (.mul rd rs1 rs2) s rd v (s.pc + 4) ∧
      v.toNat = (s.getX rs1).toNat * (s.getX rs2).toNat % 2 ^ 64) ∧
    (∃ v, WritesX (.mulh rd rs1 rs2) s rd v (s.pc + 4) ∧
      v.toInt = (s.getX rs1).toInt * (s.getX rs2).toInt / 2 ^ 64) ∧
    (∃ v, WritesX (.mulhsu rd rs1 rs2) s rd v (s.pc + 4) ∧
      v.toInt = (s.getX rs1).toInt * ((s.getX rs2).toNat : Int) / 2 ^ 64) ∧
    (∃ v, WritesX (.mulhu rd rs1 rs2) s rd v (s.pc + 4) ∧
      v.toNat = (s.getX rs1).toNat * (s.getX rs2).toNat / 2 ^ 64) ∧
    (∃ v, WritesX (.mulw rd rs1 rs2) s rd v (s.pc + 4) ∧
      v.toInt = sext32Int (lowInt (s.getX rs1) * lowInt (s.getX rs2)))

/-- In every state these complete. By zero the quotient is all ones and the remainder the dividend; the most negative
dividend by -1 gives itself and 0; otherwise the signed quotient rounds towards zero and the remainder takes the
dividend's sign. The pc advances by 4; all else is unchanged. (42_muldiv.md rules R700, R705 to R708, R720) -/
def Obligations.DivideResults : Prop :=
  ∀ (s : State) (rd rs1 rs2 : XReg),
    (∃ q r, WritesX (.div rd rs1 rs2) s rd q (s.pc + 4) ∧ WritesX (.rem rd rs1 rs2) s rd r (s.pc + 4) ∧
      if s.getX rs2 = 0 then q = ones ∧ r = s.getX rs1
      else if (s.getX rs1).toInt = -2 ^ 63 ∧ (s.getX rs2).toInt = -1 then q.toInt = -2 ^ 63 ∧ r = 0
      else q.toInt = (s.getX rs1).toInt.tdiv (s.getX rs2).toInt ∧
        r.toInt = (s.getX rs1).toInt.tmod (s.getX rs2).toInt) ∧
    (∃ q r, WritesX (.divu rd rs1 rs2) s rd q (s.pc + 4) ∧ WritesX (.remu rd rs1 rs2) s rd r (s.pc + 4) ∧
      if s.getX rs2 = 0 then q = ones ∧ r = s.getX rs1
      else q.toNat = (s.getX rs1).toNat / (s.getX rs2).toNat ∧
        r.toNat = (s.getX rs1).toNat % (s.getX rs2).toNat)

/-- In every state these complete on the low words: by zero the quotient is all ones and the remainder the sign-extended
low word of the dividend; the most negative word by -1 gives itself sign-extended and 0; otherwise the word result is
sign-extended. The pc advances by 4; all else is unchanged. (42_muldiv.md rules R700, R710 to R713, R720) -/
def Obligations.WordDivideResults : Prop :=
  ∀ (s : State) (rd rs1 rs2 : XReg),
    (∃ q r, WritesX (.divw rd rs1 rs2) s rd q (s.pc + 4) ∧ WritesX (.remw rd rs1 rs2) s rd r (s.pc + 4) ∧
      if lowInt (s.getX rs2) = 0 then q = ones ∧ r.toInt = lowInt (s.getX rs1)
      else if lowInt (s.getX rs1) = -2 ^ 31 ∧ lowInt (s.getX rs2) = -1 then q.toInt = -2 ^ 31 ∧ r = 0
      else q.toInt = (lowInt (s.getX rs1)).tdiv (lowInt (s.getX rs2)) ∧
        r.toInt = (lowInt (s.getX rs1)).tmod (lowInt (s.getX rs2))) ∧
    (∃ q r, WritesX (.divuw rd rs1 rs2) s rd q (s.pc + 4) ∧ WritesX (.remuw rd rs1 rs2) s rd r (s.pc + 4) ∧
      if lowNat (s.getX rs2) = 0 then q = ones ∧ r.toInt = lowInt (s.getX rs1)
      else q.toInt = sext32Int (lowNat (s.getX rs1) / lowNat (s.getX rs2) : Nat) ∧
        r.toInt = sext32Int (lowNat (s.getX rs1) % lowNat (s.getX rs2) : Nat))

/-- Whenever the bytes at x[rs1] + imm lie in one region, aligned or not, the load completes: rd gets the value of the
bytes, least significant first, sign- or zero-extended; the pc advances by 4; memory and all else is unchanged.
(43_loadstore.md rules R750 to R757, 20_memory.md rules R211, R212, R220, R221) -/
def Obligations.LoadsComplete : Prop :=
  ∀ (s : State) (rd rs1 : XReg) (imm : Word),
    (ReadAdmitted s (s.getX rs1 + imm) 1 → WritesX (.lb rd rs1 imm) s rd ((byteAt s (s.getX rs1 + imm) 0).signExtend 64) (s.pc + 4)) ∧
    (ReadAdmitted s (s.getX rs1 + imm) 2 → WritesX (.lh rd rs1 imm) s rd ((halfAt s (s.getX rs1 + imm)).signExtend 64) (s.pc + 4)) ∧
    (ReadAdmitted s (s.getX rs1 + imm) 4 → WritesX (.lw rd rs1 imm) s rd ((wordAt s (s.getX rs1 + imm)).signExtend 64) (s.pc + 4)) ∧
    (ReadAdmitted s (s.getX rs1 + imm) 8 → WritesX (.ld rd rs1 imm) s rd (doubleAt s (s.getX rs1 + imm)) (s.pc + 4)) ∧
    (ReadAdmitted s (s.getX rs1 + imm) 1 → WritesX (.lbu rd rs1 imm) s rd ((byteAt s (s.getX rs1 + imm) 0).setWidth 64) (s.pc + 4)) ∧
    (ReadAdmitted s (s.getX rs1 + imm) 2 → WritesX (.lhu rd rs1 imm) s rd ((halfAt s (s.getX rs1 + imm)).setWidth 64) (s.pc + 4)) ∧
    (ReadAdmitted s (s.getX rs1 + imm) 4 → WritesX (.lwu rd rs1 imm) s rd ((wordAt s (s.getX rs1 + imm)).setWidth 64) (s.pc + 4))

/-- Whenever the bytes at x[rs1] + imm lie in one writable region, aligned or not, the store completes: those bytes become
the low bytes of x[rs2], least significant first; every other byte of memory, every register and all else is
unchanged; the pc advances by 4. (43_loadstore.md rules R750, R758 to R761, 20_memory.md rules R211, R213, R220, R221) -/
def Obligations.StoresComplete : Prop :=
  ∀ (s : State) (rs1 rs2 : XReg) (imm : Word), s.mem.wf = true →
    (WriteAdmitted s (s.getX rs1 + imm) 1 → Stores (.sb rs1 rs2 imm) s (s.getX rs1 + imm) 1 (s.getX rs2) (s.pc + 4)) ∧
    (WriteAdmitted s (s.getX rs1 + imm) 2 → Stores (.sh rs1 rs2 imm) s (s.getX rs1 + imm) 2 (s.getX rs2) (s.pc + 4)) ∧
    (WriteAdmitted s (s.getX rs1 + imm) 4 → Stores (.sw rs1 rs2 imm) s (s.getX rs1 + imm) 4 (s.getX rs2) (s.pc + 4)) ∧
    (WriteAdmitted s (s.getX rs1 + imm) 8 → Stores (.sd rs1 rs2 imm) s (s.getX rs1 + imm) 8 (s.getX rs2) (s.pc + 4))

/-- Whenever the access is admitted: FLW writes the four bytes NaN-boxed, FLD the eight bytes, FSW stores the low four
bytes of the register whether boxed or not, FSD all eight; the pc advances by 4; all else is unchanged. (46_float.md
rules R910 to R913, 10_state.md rule R105) -/
def Obligations.FloatLoadsAndStoresComplete : Prop :=
  ∀ (s : State) (fd : FReg) (rs1 : XReg) (imm : Word), s.mem.wf = true →
    (ReadAdmitted s (s.getX rs1 + imm) 4 →
      WritesF (.flw fd rs1 imm) s fd ((0xFFFFFFFF : BitVec 32) ++ wordAt s (s.getX rs1 + imm)) (s.pc + 4)) ∧
    (ReadAdmitted s (s.getX rs1 + imm) 8 →
      WritesF (.fld fd rs1 imm) s fd (doubleAt s (s.getX rs1 + imm)) (s.pc + 4)) ∧
    (WriteAdmitted s (s.getX rs1 + imm) 4 →
      Stores (.fsw rs1 fd imm) s (s.getX rs1 + imm) 4 (s.getF fd) (s.pc + 4)) ∧
    (WriteAdmitted s (s.getX rs1 + imm) 8 →
      Stores (.fsd rs1 fd imm) s (s.getX rs1 + imm) 8 (s.getF fd) (s.pc + 4))

/-- A load, full or compressed, integer or floating, whose bytes are not all in the one region that holds its address ends
with MemoryFault(Load, ea): nothing is written. (60_exceptions.md rule R1101, 20_memory.md rules R211, R212) -/
def Obligations.LoadsFault : Prop :=
  ∀ (s : State) (rd rs1 : XReg) (fd : FReg) (imm : Word),
    (¬ReadAdmitted s (s.getX rs1 + imm) 1 →
      Faults (.lb rd rs1 imm) s .load (s.getX rs1 + imm) ∧ Faults (.lbu rd rs1 imm) s .load (s.getX rs1 + imm)) ∧
    (¬ReadAdmitted s (s.getX rs1 + imm) 2 →
      Faults (.lh rd rs1 imm) s .load (s.getX rs1 + imm) ∧ Faults (.lhu rd rs1 imm) s .load (s.getX rs1 + imm)) ∧
    (¬ReadAdmitted s (s.getX rs1 + imm) 4 →
      Faults (.lw rd rs1 imm) s .load (s.getX rs1 + imm) ∧ Faults (.lwu rd rs1 imm) s .load (s.getX rs1 + imm) ∧
      Faults (.flw fd rs1 imm) s .load (s.getX rs1 + imm) ∧ Faults (.cLw rd rs1 imm) s .load (s.getX rs1 + imm)) ∧
    (¬ReadAdmitted s (s.getX rs1 + imm) 8 →
      Faults (.ld rd rs1 imm) s .load (s.getX rs1 + imm) ∧ Faults (.fld fd rs1 imm) s .load (s.getX rs1 + imm) ∧
      Faults (.cLd rd rs1 imm) s .load (s.getX rs1 + imm) ∧ Faults (.cFld fd rs1 imm) s .load (s.getX rs1 + imm)) ∧
    (¬ReadAdmitted s (s.getX 2 + imm) 4 → Faults (.cLwsp rd imm) s .load (s.getX 2 + imm)) ∧
    (¬ReadAdmitted s (s.getX 2 + imm) 8 →
      Faults (.cLdsp rd imm) s .load (s.getX 2 + imm) ∧ Faults (.cFldsp fd imm) s .load (s.getX 2 + imm))

/-- A store, full or compressed, integer or floating, whose bytes are not all in one region or whose region is read-only
ends with MemoryFault(Store, ea): nothing is written. (60_exceptions.md rule R1101, 20_memory.md rules R211, R213) -/
def Obligations.StoresFault : Prop :=
  ∀ (s : State) (rs1 rs2 : XReg) (fs : FReg) (imm : Word),
    (¬WriteAdmitted s (s.getX rs1 + imm) 1 → Faults (.sb rs1 rs2 imm) s .store (s.getX rs1 + imm)) ∧
    (¬WriteAdmitted s (s.getX rs1 + imm) 2 → Faults (.sh rs1 rs2 imm) s .store (s.getX rs1 + imm)) ∧
    (¬WriteAdmitted s (s.getX rs1 + imm) 4 →
      Faults (.sw rs1 rs2 imm) s .store (s.getX rs1 + imm) ∧ Faults (.fsw rs1 fs imm) s .store (s.getX rs1 + imm) ∧
      Faults (.cSw rs1 rs2 imm) s .store (s.getX rs1 + imm)) ∧
    (¬WriteAdmitted s (s.getX rs1 + imm) 8 →
      Faults (.sd rs1 rs2 imm) s .store (s.getX rs1 + imm) ∧ Faults (.fsd rs1 fs imm) s .store (s.getX rs1 + imm) ∧
      Faults (.cSd rs1 rs2 imm) s .store (s.getX rs1 + imm) ∧ Faults (.cFsd rs1 fs imm) s .store (s.getX rs1 + imm)) ∧
    (¬WriteAdmitted s (s.getX 2 + imm) 4 → Faults (.cSwsp rs2 imm) s .store (s.getX 2 + imm)) ∧
    (¬WriteAdmitted s (s.getX 2 + imm) 8 →
      Faults (.cSdsp rs2 imm) s .store (s.getX 2 + imm) ∧ Faults (.cFsdsp fs imm) s .store (s.getX 2 + imm))

/-- In a canonical memory, after an admitted write of n bytes an admitted read of m bytes at the same address, with m at
most n, gives the value modulo 2^(8m). (43_loadstore.md section 4, 20_memory.md rules R212, R213, R220) -/
def Obligations.WriteThenReadBack : Prop :=
  ∀ (s t : State) (a : Word) (n m : Nat) (v : Word), s.mem.wf = true → m ≤ n → n ≤ 8 →
    memWrite s a n v = .ok t → memRead t a m = .ok (BitVec.ofNat 64 (v.toNat % 2 ^ (8 * m)))

/-- In every state JAL writes pc + 4 to rd and goes to pc + imm; JALR writes pc + 4 to rd and goes to x[rs1] + imm with
bit 0 cleared, rs1 being read first; all else is unchanged. (44_control.md rules R800, R801, R810) -/
def Obligations.JumpsComplete : Prop :=
  ∀ (s : State) (rd rs1 : XReg) (imm : Word),
    WritesX (.jal rd imm) s rd (s.pc + 4) (s.pc + imm) ∧
    (∃ target, WritesX (.jalr rd rs1 imm) s rd (s.pc + 4) target ∧
      target.toNat = 2 * ((s.getX rs1 + imm).toNat / 2))

/-- In every state a branch goes to pc + imm if its signed or unsigned comparison of x[rs1] and x[rs2] holds and to pc + 4
otherwise; all else is unchanged. (44_control.md rules R802 to R807, R810) -/
def Obligations.BranchesComplete : Prop :=
  ∀ (s : State) (rs1 rs2 : XReg) (imm : Word),
    OnlyPc (.beq rs1 rs2 imm) s (if (s.getX rs1).toNat = (s.getX rs2).toNat then s.pc + imm else s.pc + 4) ∧
    OnlyPc (.bne rs1 rs2 imm) s (if (s.getX rs1).toNat ≠ (s.getX rs2).toNat then s.pc + imm else s.pc + 4) ∧
    OnlyPc (.blt rs1 rs2 imm) s (if (s.getX rs1).toInt < (s.getX rs2).toInt then s.pc + imm else s.pc + 4) ∧
    OnlyPc (.bge rs1 rs2 imm) s (if (s.getX rs1).toInt ≥ (s.getX rs2).toInt then s.pc + imm else s.pc + 4) ∧
    OnlyPc (.bltu rs1 rs2 imm) s (if (s.getX rs1).toNat < (s.getX rs2).toNat then s.pc + imm else s.pc + 4) ∧
    OnlyPc (.bgeu rs1 rs2 imm) s (if (s.getX rs1).toNat ≥ (s.getX rs2).toNat then s.pc + imm else s.pc + 4)

/-- In every state the nineteen compressed integer forms complete with the value of the full instruction they expand to;
the pc advances by 2; all else is unchanged. (30_encoding.md rules R400, R410, R420 to R433, R440, R445, R448,
41_integer.md) -/
def Obligations.CompressedIntegerResults : Prop :=
  ∀ (s : State) (rd rs2 : XReg) (imm : Word) (shamt : BitVec 6),
    WritesX (.cAddi4spn rd imm) s rd (s.getX 2 + imm) (s.pc + 2) ∧
    OnlyPc .cNop s (s.pc + 2) ∧
    WritesX (.cAddi rd imm) s rd (s.getX rd + imm) (s.pc + 2) ∧
    (∃ v, WritesX (.cAddiw rd imm) s rd v (s.pc + 2) ∧ v.toInt = sext32Int (lowNat (s.getX rd) + lowNat imm)) ∧
    WritesX (.cLi rd imm) s rd imm (s.pc + 2) ∧
    WritesX (.cAddi16sp imm) s 2 (s.getX 2 + imm) (s.pc + 2) ∧
    WritesX (.cLui rd imm) s rd imm (s.pc + 2) ∧
    (∃ v, WritesX (.cSrli rd shamt) s rd v (s.pc + 2) ∧ v.toNat = (s.getX rd).toNat / 2 ^ shamt.toNat) ∧
    (∃ v, WritesX (.cSrai rd shamt) s rd v (s.pc + 2) ∧ v.toInt = (s.getX rd).toInt / 2 ^ shamt.toNat) ∧
    WritesX (.cAndi rd imm) s rd (s.getX rd &&& imm) (s.pc + 2) ∧
    WritesX (.cSub rd rs2) s rd (s.getX rd - s.getX rs2) (s.pc + 2) ∧
    WritesX (.cXor rd rs2) s rd (s.getX rd ^^^ s.getX rs2) (s.pc + 2) ∧
    WritesX (.cOr rd rs2) s rd (s.getX rd ||| s.getX rs2) (s.pc + 2) ∧
    WritesX (.cAnd rd rs2) s rd (s.getX rd &&& s.getX rs2) (s.pc + 2) ∧
    (∃ v, WritesX (.cSubw rd rs2) s rd v (s.pc + 2) ∧
      v.toInt = sext32Int (lowNat (s.getX rd) - lowNat (s.getX rs2))) ∧
    (∃ v, WritesX (.cAddw rd rs2) s rd v (s.pc + 2) ∧
      v.toInt = sext32Int (lowNat (s.getX rd) + lowNat (s.getX rs2))) ∧
    (∃ v, WritesX (.cSlli rd shamt) s rd v (s.pc + 2) ∧
      v.toNat = (s.getX rd).toNat * 2 ^ shamt.toNat % 2 ^ 64) ∧
    WritesX (.cMv rd rs2) s rd (s.getX rs2) (s.pc + 2) ∧
    WritesX (.cAdd rd rs2) s rd (s.getX rd + s.getX rs2) (s.pc + 2)

/-- In every state C.J goes to pc + imm and C.JR to x[rs1] with bit 0 cleared, writing nothing; C.JALR also writes pc + 2
to x1; C.BEQZ and C.BNEZ compare with 0 and fall through to pc + 2; all else is unchanged. (30_encoding.md rules R435
to R437, R444, R447, 44_control.md rules R800 to R803) -/
def Obligations.CompressedJumpsAndBranches : Prop :=
  ∀ (s : State) (rs1 : XReg) (imm : Word),
    OnlyPc (.cJ imm) s (s.pc + imm) ∧
    (∃ target, target.toNat = 2 * ((s.getX rs1).toNat / 2) ∧
      OnlyPc (.cJr rs1) s target ∧ WritesX (.cJalr rs1) s 1 (s.pc + 2) target) ∧
    OnlyPc (.cBeqz rs1 imm) s (if s.getX rs1 = 0 then s.pc + imm else s.pc + 2) ∧
    OnlyPc (.cBnez rs1 imm) s (if s.getX rs1 = 0 then s.pc + 2 else s.pc + imm)

/-- Whenever the access is admitted, C.LW, C.LD, C.FLD and the stack-pointer forms C.LWSP, C.LDSP, C.FLDSP, whose base is
x2, complete; the pc advances by 2; all else is unchanged. (30_encoding.md rules R411 to R413, R441 to R443,
43_loadstore.md, 46_float.md rule R912) -/
def Obligations.CompressedLoadsComplete : Prop :=
  ∀ (s : State) (rd rs1 : XReg) (fd : FReg) (imm : Word),
    (ReadAdmitted s (s.getX rs1 + imm) 4 →
      WritesX (.cLw rd rs1 imm) s rd ((wordAt s (s.getX rs1 + imm)).signExtend 64) (s.pc + 2)) ∧
    (ReadAdmitted s (s.getX rs1 + imm) 8 →
      WritesX (.cLd rd rs1 imm) s rd (doubleAt s (s.getX rs1 + imm)) (s.pc + 2) ∧
      WritesF (.cFld fd rs1 imm) s fd (doubleAt s (s.getX rs1 + imm)) (s.pc + 2)) ∧
    (ReadAdmitted s (s.getX 2 + imm) 4 →
      WritesX (.cLwsp rd imm) s rd ((wordAt s (s.getX 2 + imm)).signExtend 64) (s.pc + 2)) ∧
    (ReadAdmitted s (s.getX 2 + imm) 8 →
      WritesX (.cLdsp rd imm) s rd (doubleAt s (s.getX 2 + imm)) (s.pc + 2) ∧
      WritesF (.cFldsp fd imm) s fd (doubleAt s (s.getX 2 + imm)) (s.pc + 2))

/-- Whenever the access is admitted, C.SW, C.SD, C.FSD and the stack-pointer forms C.SWSP, C.SDSP, C.FSDSP, whose base is
x2, complete; no other byte changes; the pc advances by 2; all else is unchanged. (30_encoding.md rules R415 to R417,
R449 to R451, 43_loadstore.md, 46_float.md rule R913) -/
def Obligations.CompressedStoresComplete : Prop :=
  ∀ (s : State) (rs1 rs2 : XReg) (fs : FReg) (imm : Word), s.mem.wf = true →
    (WriteAdmitted s (s.getX rs1 + imm) 4 →
      Stores (.cSw rs1 rs2 imm) s (s.getX rs1 + imm) 4 (s.getX rs2) (s.pc + 2)) ∧
    (WriteAdmitted s (s.getX rs1 + imm) 8 →
      Stores (.cSd rs1 rs2 imm) s (s.getX rs1 + imm) 8 (s.getX rs2) (s.pc + 2) ∧
      Stores (.cFsd rs1 fs imm) s (s.getX rs1 + imm) 8 (s.getF fs) (s.pc + 2)) ∧
    (WriteAdmitted s (s.getX 2 + imm) 4 →
      Stores (.cSwsp rs2 imm) s (s.getX 2 + imm) 4 (s.getX rs2) (s.pc + 2)) ∧
    (WriteAdmitted s (s.getX 2 + imm) 8 →
      Stores (.cSdsp rs2 imm) s (s.getX 2 + imm) 8 (s.getX rs2) (s.pc + 2) ∧
      Stores (.cFsdsp fs imm) s (s.getX 2 + imm) 8 (s.getF fs) (s.pc + 2))

/-- In every state FMV.X.W writes the low word of f[rs1] sign-extended with no box check, FMV.X.D all of f[rs1], FMV.W.X
the low word of x[rs1] NaN-boxed, FMV.D.X all of x[rs1]; the pc advances by 4; all else is unchanged. (46_float.md
rules R920 to R923, 10_state.md rule R105) -/
def Obligations.FloatMovesComplete : Prop :=
  ∀ (s : State) (r : XReg) (q : FReg),
    WritesX (.fmvXW r q) s r (((s.getF q).setWidth 32).signExtend 64) (s.pc + 4) ∧
    WritesX (.fmvXD r q) s r (s.getF q) (s.pc + 4) ∧
    WritesF (.fmvWX q r) s q ((0xFFFFFFFF : BitVec 32) ++ (s.getX r).setWidth 32) (s.pc + 4) ∧
    WritesF (.fmvDX q r) s q (s.getX r) (s.pc + 4)

/-- For every rm that is not reserved FCVT.S.D completes; a NaN gives the boxed canonical NaN, an infinity the boxed
infinity of its sign, and a finite magnitude of 2^128 or more the infinity or the largest finite value that rm and the
sign select; the pc advances by 4; all else is unchanged. (46_float.md rules R901, R902, R930, 10_state.md rule R105) -/
def Obligations.NarrowSpecialValues : Prop :=
  ∀ (s : State) (rd rs1 : FReg) (rm : BitVec 3), rm ≠ 5 → rm ≠ 6 →
    (exponentOf (s.getF rs1) = 2047 → fractionOf (s.getF rs1) ≠ 0 →
      WritesF (.fcvtSD rd rs1 rm) s rd 0xFFFFFFFF7FC00000 (s.pc + 4)) ∧
    (exponentOf (s.getF rs1) = 2047 → fractionOf (s.getF rs1) = 0 →
      WritesF (.fcvtSD rd rs1 rm) s rd (boxed ((s.getF rs1).msb) 0x7F800000) (s.pc + 4)) ∧
    (exponentOf (s.getF rs1) ≠ 2047 → scaled32 0x7F800000 ≤ scaled64 (s.getF rs1) →
      WritesF (.fcvtSD rd rs1 rm) s rd
        (boxed ((s.getF rs1).msb) (if overflowsToInfinity rm (s.getF rs1).msb then 0x7F800000 else 0x7F7FFFFF))
        (s.pc + 4))

/-- For every rm that is not reserved and every finite operand of magnitude below 2^128, FCVT.S.D completes with one of
the two binary32 values around it: the lower magnitude q unless the direction of rm, by the exact distances, takes the
upper one; the result keeps the sign and is NaN-boxed; the pc advances by 4; all else is unchanged. Both subnormal
results and zero are included. (46_float.md rules R901, R930, 30_encoding.md rule R317) -/
def Obligations.NarrowRoundsFiniteValues : Prop :=
  ∀ (s : State) (rd rs1 : FReg) (rm : BitVec 3), rm ≠ 5 → rm ≠ 6 →
    exponentOf (s.getF rs1) ≠ 2047 → scaled64 (s.getF rs1) < scaled32 0x7F800000 →
    ∃ q m : Nat, q < 0x7F800000 ∧ scaled32 q ≤ scaled64 (s.getF rs1) ∧ scaled64 (s.getF rs1) < scaled32 (q + 1) ∧
      ((m = q ∧ ¬takesUpper rm (s.getF rs1).msb q (scaled64 (s.getF rs1))) ∨
        (m = q + 1 ∧ takesUpper rm (s.getF rs1).msb q (scaled64 (s.getF rs1)))) ∧
      WritesF (.fcvtSD rd rs1 rm) s rd (boxed (s.getF rs1).msb m) (s.pc + 4)

/-- For every rm that is not reserved FCVT.D.S completes: an operand that is not NaN-boxed or is a NaN gives the canonical
NaN, an infinity the infinity of its sign, and a finite operand, subnormal or not, the finite binary64 pattern of the
same sign and exactly the same value; the pc advances by 4; all else is unchanged. (46_float.md rules R901, R902,
R931, 10_state.md rule R105) -/
def Obligations.WidenIsExact : Prop :=
  ∀ (s : State) (rd rs1 : FReg) (rm : BitVec 3), rm ≠ 5 → rm ≠ 6 →
    ∃ d, WritesF (.fcvtDS rd rs1 rm) s rd d (s.pc + 4) ∧
      if isBoxed (s.getF rs1) = true ∧ magnitudeOf (s.getF rs1) ≤ 0x7F800000 then
        d.msb = ((s.getF rs1).setWidth 32).msb ∧
        if magnitudeOf (s.getF rs1) = 0x7F800000 then exponentOf d = 2047 ∧ fractionOf d = 0
        else exponentOf d ≠ 2047 ∧ scaled64 d = scaled32 (magnitudeOf (s.getF rs1))
      else d = 0x7FF8000000000000

/-- Executed with rm = 101 or 110, FCVT.S.D and FCVT.D.S end with ReservedInstruction and write nothing. The word is
spelled out from the encoding; that it is the word the step fetched is assumption log 15. (46_float.md rule R901,
60_exceptions.md rule R1102) -/
def Obligations.ReservedRoundingStops : Prop :=
  ∀ (s : State) (rd rs1 : FReg) (rm : BitVec 3), rm = 5 ∨ rm = 6 →
    exec (.fcvtSD rd rs1 rm) s
      = .fault (.reservedInstruction ((0x40100053 : BitVec 32) ||| rd.setWidth 32 <<< 7 ||| rm.setWidth 32 <<< 12 |||
          rs1.setWidth 32 <<< 15) 4) ∧
    exec (.fcvtDS rd rs1 rm) s
      = .fault (.reservedInstruction ((0x42000053 : BitVec 32) ||| rd.setWidth 32 <<< 7 ||| rm.setWidth 32 <<< 12 |||
          rs1.setWidth 32 <<< 15) 4)

/-- Executing any of the 52 instructions ends the run with Unimplemented and that instruction, whatever rm and the operand
registers hold; a step that fetches one halts so, never with ReservedInstruction, and leaves the whole state, the pc
among it, as it was. (R939) -/
def Obligations.UnimplementedFloatStops : Prop :=
  ∀ (i : Instr) (s : State), unimplementedFp i = true →
    exec i s = .fault (.unimplemented i) ∧
    (fetchDecode s = .ok i → stepOutcome s = some (s, .halted (.unimplemented i)))

/-- In every state and with every field value FENCE changes no register, no memory and no region; the pc advances by 4.
(47_system.md rule R1000, 20_memory.md rule R231) -/
def Obligations.FenceCompletes : Prop :=
  ∀ (s : State) (fm pred succ : BitVec 4) (rs1 rd : XReg), OnlyPc (.fence fm pred succ rs1 rd) s (s.pc + 4)

/-- The words 0x00100073 and 0x9002 decode to EBREAK and C.EBREAK, each of which ends with Break in every state, writing
nothing; and an instruction that ends with Break is one of the two. (R1103) -/
def Obligations.BreakpointStops : Prop :=
  decodeFull 0x00100073 = .instr .ebreak ∧ decodeHalf 0x9002 = .instr .cEbreak ∧
  ∀ (i : Instr) (s : State), exec i s = .fault .breakpoint ↔ i = .ebreak ∨ i = .cEbreak

/-- When x17 is neither 93 nor 94: if the next answer recognises the call and returns v, ECALL completes with v in x10; if
it does not recognise the call, or no answer is left, x10 gets 2^64 - ENOSYS. Memory and regions are exactly what the
answer's effects make of them (unchanged if no answer is left), the answer is used up, the reservation is cleared, the
pc advances by 4, and every other register and the parameters are unchanged. That no answer left reads as not
recognised, and that answers are a list, is the model's choice (assumption log 7). (47_system.md rules R1010, R1011,
48_atomic.md rule R1051) -/
def Obligations.SyscallReturns : Prop :=
  ∀ s : State, s.getX 17 ≠ 93 → s.getX 17 ≠ 94 →
    (∀ v ops rest, s.syscalls = .recognised (.ret v) ops :: rest → CallReturns s ops rest v) ∧
    (∀ ops rest, s.syscalls = .notRecognised ops :: rest →
      ∃ v, v.toNat = (2 ^ 64 - s.cfg.enosys.toNat) % 2 ^ 64 ∧ CallReturns s ops rest v) ∧
    (s.syscalls = [] →
      ∃ v, v.toNat = (2 ^ 64 - s.cfg.enosys.toNat) % 2 ^ 64 ∧ CallReturns s [] [] v)

/-- With x17 = 93 ECALL ends with Exit(x10) whatever is answered; with x17 = 94 it ends with Exit of the code answered, or
of x10 where the answer is no exit; and with no answer left either ends with Exit(x10), with memory and regions
unchanged. The state left has every register and the pc as before, no reservation, and memory and regions exactly as
the answer's effects make them. Rule R1010 names 93 and 94 and the codes of examples only: which code these numbers
give, and that an empty list is the reference collaborator of decision D40, is the model's choice (assumption log 7,
DESIGN CHOICE); that the effects of an exiting call stay is rule R1011. (47_system.md rules R1010, R1011,
92_eei_decisions.md D40, 48_atomic.md rule R1051) -/
def Obligations.SyscallExits : Prop :=
  ∀ s : State,
    (s.getX 17 = 93 ∨ s.getX 17 = 94 → s.syscalls = [] →
      exec .ecall s = .fault (.exit (s.getX 10) { s with resv := none })) ∧
    (∀ a rest, s.syscalls = a :: rest →
      (s.getX 17 = 93 → CallExits s (answerEffects a) rest (s.getX 10)) ∧
      (s.getX 17 = 94 →
        (∀ c ops, a = .recognised (.exit c) ops → CallExits s ops rest c) ∧
        ((∀ c ops, a ≠ .recognised (.exit c) ops) → CallExits s (answerEffects a) rest (s.getX 10))))

/-- When x17 is neither 93 nor 94 and the next answer exits with c, ECALL ends with Exit of exactly c, in a state with
every register and the pc as before, no reservation, the answer used up, and memory and regions exactly as the
answer's effects make them. And whatever the number and whatever the collaborator answers and does to memory and
regions: if ECALL returns, every integer register but x10 and every floating register is unchanged and the pc advances
by 4; if it exits, the state left has every register and the pc unchanged; in both cases the reservation is cleared
and the parameters are unchanged; and ECALL ends in no other way. (47_system.md rules R1010, R1011,
40_execution_cycle.md rule R505) -/
def Obligations.SyscallKeepsRegisters : Prop :=
  ∀ s : State,
    (s.getX 17 ≠ 93 → s.getX 17 ≠ 94 → ∀ c ops rest, s.syscalls = .recognised (.exit c) ops :: rest →
      CallExits s ops rest c) ∧
    ((∃ t v, exec .ecall s = .next t ∧ OnlyX s t 10 v ∧ SameF s t ∧ t.pc = s.pc + 4 ∧ t.resv = none ∧ t.cfg = s.cfg) ∨
    (∃ t c, exec .ecall s = .fault (.exit c t) ∧ SameX s t ∧ SameF s t ∧ t.pc = s.pc ∧ t.resv = none ∧ t.cfg = s.cfg))

/-- For an AMO in the implemented set whose address is a multiple of 4 and whose word is writable: the word becomes the
operation's result on the low word of x[rs2], rd gets the old word sign-extended, no other byte, register or the
reservation changes, and the pc advances by 4. aq and rl have no effect. (48_atomic.md rules R1050 to R1055,
48_atomic.md rules R1062 to R1070) -/
def Obligations.WordAmosComplete : Prop :=
  ∀ (s : State) (rd rs1 rs2 : XReg) (aq rl : BitVec 1),
    s.mem.wf = true → (s.getX rs1).toNat % 4 = 0 → WriteAdmitted s (s.getX rs1) 4 →
    (.amoswapW ∈ s.cfg.implementedAtomics → AmoEffect (.amoswapW rd rs1 rs2 aq rl) s rd (s.getX rs1) 4 ((wordAt s (s.getX rs1)).signExtend 64)
      (((s.getX rs2).setWidth 32).setWidth 64)) ∧
    (.amoaddW ∈ s.cfg.implementedAtomics → AmoEffect (.amoaddW rd rs1 rs2 aq rl) s rd (s.getX rs1) 4 ((wordAt s (s.getX rs1)).signExtend 64)
      ((wordAt s (s.getX rs1) + (s.getX rs2).setWidth 32).setWidth 64)) ∧
    (.amoxorW ∈ s.cfg.implementedAtomics → AmoEffect (.amoxorW rd rs1 rs2 aq rl) s rd (s.getX rs1) 4 ((wordAt s (s.getX rs1)).signExtend 64)
      ((wordAt s (s.getX rs1) ^^^ (s.getX rs2).setWidth 32).setWidth 64)) ∧
    (.amoandW ∈ s.cfg.implementedAtomics → AmoEffect (.amoandW rd rs1 rs2 aq rl) s rd (s.getX rs1) 4 ((wordAt s (s.getX rs1)).signExtend 64)
      ((wordAt s (s.getX rs1) &&& (s.getX rs2).setWidth 32).setWidth 64)) ∧
    (.amoorW ∈ s.cfg.implementedAtomics → AmoEffect (.amoorW rd rs1 rs2 aq rl) s rd (s.getX rs1) 4 ((wordAt s (s.getX rs1)).signExtend 64)
      ((wordAt s (s.getX rs1) ||| (s.getX rs2).setWidth 32).setWidth 64)) ∧
    (.amominW ∈ s.cfg.implementedAtomics → AmoEffect (.amominW rd rs1 rs2 aq rl) s rd (s.getX rs1) 4 ((wordAt s (s.getX rs1)).signExtend 64)
      ((if (wordAt s (s.getX rs1)).toInt < ((s.getX rs2).setWidth 32).toInt then wordAt s (s.getX rs1) else (s.getX rs2).setWidth 32).setWidth 64)) ∧
    (.amomaxW ∈ s.cfg.implementedAtomics → AmoEffect (.amomaxW rd rs1 rs2 aq rl) s rd (s.getX rs1) 4 ((wordAt s (s.getX rs1)).signExtend 64)
      ((if (wordAt s (s.getX rs1)).toInt > ((s.getX rs2).setWidth 32).toInt then wordAt s (s.getX rs1) else (s.getX rs2).setWidth 32).setWidth 64)) ∧
    (.amominuW ∈ s.cfg.implementedAtomics → AmoEffect (.amominuW rd rs1 rs2 aq rl) s rd (s.getX rs1) 4 ((wordAt s (s.getX rs1)).signExtend 64)
      ((if (wordAt s (s.getX rs1)).toNat < ((s.getX rs2).setWidth 32).toNat then wordAt s (s.getX rs1) else (s.getX rs2).setWidth 32).setWidth 64)) ∧
    (.amomaxuW ∈ s.cfg.implementedAtomics → AmoEffect (.amomaxuW rd rs1 rs2 aq rl) s rd (s.getX rs1) 4 ((wordAt s (s.getX rs1)).signExtend 64)
      ((if (wordAt s (s.getX rs1)).toNat > ((s.getX rs2).setWidth 32).toNat then wordAt s (s.getX rs1) else (s.getX rs2).setWidth 32).setWidth 64))

/-- For an AMO in the implemented set whose address is a multiple of 8 and whose doubleword is writable: the doubleword
becomes the operation's result on x[rs2], rd gets the old doubleword, no other byte, register or the reservation
changes, and the pc advances by 4. aq and rl have no effect. (48_atomic.md rules R1050 to R1055, 48_atomic.md rules
R1073 to R1081) -/
def Obligations.DoubleAmosComplete : Prop :=
  ∀ (s : State) (rd rs1 rs2 : XReg) (aq rl : BitVec 1),
    s.mem.wf = true → (s.getX rs1).toNat % 8 = 0 → WriteAdmitted s (s.getX rs1) 8 →
    (.amoswapD ∈ s.cfg.implementedAtomics → AmoEffect (.amoswapD rd rs1 rs2 aq rl) s rd (s.getX rs1) 8 (doubleAt s (s.getX rs1))
      (s.getX rs2)) ∧
    (.amoaddD ∈ s.cfg.implementedAtomics → AmoEffect (.amoaddD rd rs1 rs2 aq rl) s rd (s.getX rs1) 8 (doubleAt s (s.getX rs1))
      (doubleAt s (s.getX rs1) + s.getX rs2)) ∧
    (.amoxorD ∈ s.cfg.implementedAtomics → AmoEffect (.amoxorD rd rs1 rs2 aq rl) s rd (s.getX rs1) 8 (doubleAt s (s.getX rs1))
      (doubleAt s (s.getX rs1) ^^^ s.getX rs2)) ∧
    (.amoandD ∈ s.cfg.implementedAtomics → AmoEffect (.amoandD rd rs1 rs2 aq rl) s rd (s.getX rs1) 8 (doubleAt s (s.getX rs1))
      (doubleAt s (s.getX rs1) &&& s.getX rs2)) ∧
    (.amoorD ∈ s.cfg.implementedAtomics → AmoEffect (.amoorD rd rs1 rs2 aq rl) s rd (s.getX rs1) 8 (doubleAt s (s.getX rs1))
      (doubleAt s (s.getX rs1) ||| s.getX rs2)) ∧
    (.amominD ∈ s.cfg.implementedAtomics → AmoEffect (.amominD rd rs1 rs2 aq rl) s rd (s.getX rs1) 8 (doubleAt s (s.getX rs1))
      (if (doubleAt s (s.getX rs1)).toInt < (s.getX rs2).toInt then doubleAt s (s.getX rs1) else s.getX rs2)) ∧
    (.amomaxD ∈ s.cfg.implementedAtomics → AmoEffect (.amomaxD rd rs1 rs2 aq rl) s rd (s.getX rs1) 8 (doubleAt s (s.getX rs1))
      (if (doubleAt s (s.getX rs1)).toInt > (s.getX rs2).toInt then doubleAt s (s.getX rs1) else s.getX rs2)) ∧
    (.amominuD ∈ s.cfg.implementedAtomics → AmoEffect (.amominuD rd rs1 rs2 aq rl) s rd (s.getX rs1) 8 (doubleAt s (s.getX rs1))
      (if (doubleAt s (s.getX rs1)).toNat < (s.getX rs2).toNat then doubleAt s (s.getX rs1) else s.getX rs2)) ∧
    (.amomaxuD ∈ s.cfg.implementedAtomics → AmoEffect (.amomaxuD rd rs1 rs2 aq rl) s rd (s.getX rs1) 8 (doubleAt s (s.getX rs1))
      (if (doubleAt s (s.getX rs1)).toNat > (s.getX rs2).toNat then doubleAt s (s.getX rs1) else s.getX rs2))

/-- For an LR in the implemented set whose address is naturally aligned and whose bytes are in one region: rd gets the
value, LR.W's sign-extended, the reservation becomes that address and width, the pc advances by 4, and all else is
unchanged. (48_atomic.md rules R1050 to R1054, 48_atomic.md rules R1060, R1071) -/
def Obligations.LoadReservedCompletes : Prop :=
  ∀ (s : State) (rd rs1 : XReg) (aq rl : BitVec 1),
    (.lrW ∈ s.cfg.implementedAtomics → (s.getX rs1).toNat % 4 = 0 → ReadAdmitted s (s.getX rs1) 4 →
      ∃ t, exec (.lrW rd rs1 aq rl) s = .next t ∧ OnlyX s t rd ((wordAt s (s.getX rs1)).signExtend 64) ∧
        t.resv = some (s.getX rs1, .w4) ∧ t.pc = s.pc + 4 ∧ SameF s t ∧ SameBytes s t ∧ SameTables s t) ∧
    (.lrD ∈ s.cfg.implementedAtomics → (s.getX rs1).toNat % 8 = 0 → ReadAdmitted s (s.getX rs1) 8 →
      ∃ t, exec (.lrD rd rs1 aq rl) s = .next t ∧ OnlyX s t rd (doubleAt s (s.getX rs1)) ∧
        t.resv = some (s.getX rs1, .w8) ∧ t.pc = s.pc + 4 ∧ SameF s t ∧ SameBytes s t ∧ SameTables s t)

/-- For an SC in the implemented set whose address is naturally aligned: if the reservation is that address and width and
the bytes are writable, they become the low bytes of x[rs2] and rd gets 0; if the reservation is anything else, no
memory is touched, mapped or not, and rd gets 1; either way the reservation is cleared, the pc advances by 4, and all
else is unchanged. (48_atomic.md rules R1050 to R1054, 48_atomic.md rules R1061, R1072) -/
def Obligations.StoreConditionalCompletes : Prop :=
  ∀ (s : State) (rd rs1 rs2 : XReg) (aq rl : BitVec 1), s.mem.wf = true →
    (.scW ∈ s.cfg.implementedAtomics → (s.getX rs1).toNat % 4 = 0 → s.resv = some (s.getX rs1, .w4) →
      WriteAdmitted s (s.getX rs1) 4 → ScSucceeds (.scW rd rs1 rs2 aq rl) s rd (s.getX rs1) 4 (s.getX rs2)) ∧
    (.scW ∈ s.cfg.implementedAtomics → (s.getX rs1).toNat % 4 = 0 → s.resv ≠ some (s.getX rs1, .w4) →
      ScFails (.scW rd rs1 rs2 aq rl) s rd) ∧
    (.scD ∈ s.cfg.implementedAtomics → (s.getX rs1).toNat % 8 = 0 → s.resv = some (s.getX rs1, .w8) →
      WriteAdmitted s (s.getX rs1) 8 → ScSucceeds (.scD rd rs1 rs2 aq rl) s rd (s.getX rs1) 8 (s.getX rs2)) ∧
    (.scD ∈ s.cfg.implementedAtomics → (s.getX rs1).toNat % 8 = 0 → s.resv ≠ some (s.getX rs1, .w8) →
      ScFails (.scD rd rs1 rs2 aq rl) s rd)

/-- Each of the 22 atomics ends with Unimplemented, before any access, when it is not in IMPLEMENTED_ATOMICS or its
address is not a multiple of its width. (48_atomic.md rules R1050, R1053, R1054) -/
def Obligations.AtomicsGated : Prop :=
  ∀ (i : Instr) (s : State) (op : AtomicOp) (n : Nat) (rs1 : XReg), atomicOf i = some (op, n, rs1) →
    op ∉ s.cfg.implementedAtomics ∨ (s.getX rs1).toNat % n ≠ 0 → exec i s = .fault (.unimplemented i)

/-- For an atomic in the implemented set and aligned: an LR or AMO whose bytes are not in one region ends with
MemoryFault(Load, ea); an AMO whose bytes are in one region but not writable ends with MemoryFault(Store, ea); an SC
that would succeed but whose write is refused ends with MemoryFault(Store, ea). (48_atomic.md rules R1051, R1053,
60_exceptions.md rule R1101) -/
def Obligations.AtomicsFault : Prop :=
  ∀ (i : Instr) (s : State) (op : AtomicOp) (n : Nat) (rs1 : XReg), atomicOf i = some (op, n, rs1) →
    op ∈ s.cfg.implementedAtomics → (s.getX rs1).toNat % n = 0 →
    (op ≠ .scW → op ≠ .scD → ¬ReadAdmitted s (s.getX rs1) n → Faults i s .load (s.getX rs1)) ∧
    (isAmo i = true → ReadAdmitted s (s.getX rs1) n → ¬WriteAdmitted s (s.getX rs1) n →
      Faults i s .store (s.getX rs1)) ∧
    (op = .scW → s.resv = some (s.getX rs1, .w4) → ¬WriteAdmitted s (s.getX rs1) 4 → Faults i s .store (s.getX rs1)) ∧
    (op = .scD → s.resv = some (s.getX rs1, .w8) → ¬WriteAdmitted s (s.getX rs1) 8 → Faults i s .store (s.getX rs1))

/-- When any other instruction goes on, the reservation is as before: in particular an ordinary store to the reserved
bytes does not clear it. (48_atomic.md rule R1051, 10_state.md rule R113) -/
def Obligations.ReservationKept : Prop :=
  ∀ (i : Instr) (s t : State), exec i s = .next t → touchesReservation i = false → t.resv = s.resv

/-- When the bytes at the pc lie in the region that holds it and decode to an instruction, as the row of the opcode table
they encode, the step is exactly exec of that instruction at that state: the meanings move the pc themselves and
nothing is added around them. (40_execution_cycle.md rules R500, R501, R503) -/
def Obligations.StepRunsDecoded : Prop :=
  ∀ (s : State) (n : Nat) (i : Instr),
    n = (if (s.mem.byte s.pc.toNat).toNat % 4 = 3 then 4 else 2) → ReadAdmitted s s.pc n →
    decodeRow (s.mem.bytes s.pc.toNat n) = some (.instr i, n) → step s = exec i s

/-- When the pc is in no region, or the 2 or 4 bytes that the first byte announces are not all in the region that holds
the pc, the step ends with MemoryFault(Load, pc) before anything is decoded. (40_execution_cycle.md rule R501,
20_memory.md rules R211, R214) -/
def Obligations.StepFetchMisses : Prop :=
  ∀ s : State,
    ¬(ReadAdmitted s s.pc 1 ∧ ReadAdmitted s s.pc (if (s.mem.byte s.pc.toNat).toNat % 4 = 3 then 4 else 2)) →
    step s = .fault (.memoryFault .load s.pc)

/-- When the bytes at the pc are fetched and decode to Invalid(raw, len), the step ends with ReservedInstruction(raw, len)
and leaves the whole state, the pc among it, as it was. (R502) -/
def Obligations.StepReservedWords : Prop :=
  ∀ (s : State) (n len : Nat) (raw : BitVec 32),
    n = (if (s.mem.byte s.pc.toNat).toNat % 4 = 3 then 4 else 2) → ReadAdmitted s s.pc n →
    decode (s.mem.bytes s.pc.toNat n) = some (.invalid raw len, n) →
    step s = .fault (.reservedInstruction raw len) ∧ stepOutcome s = some (s, .halted (.reservedInstruction raw len))

/-- From every state whose regions are non-empty, do not wrap and do not overlap, whose memory is in canonical form and
lists no byte outside the regions, and which holds no reservation unless LR.W or LR.D is implemented, a step that goes
on gives such a state, and so does a step that exits. The part on the region table and memory is kept on its own as
well, and so is the part on the reservation. (10_state.md rules R110, R111, R113, 20_memory.md rules R205 to R208) -/
def Obligations.StepKeepsInvariant : Prop :=
  ∀ s t : State, (step s = .next t ∨ ∃ c, step s = .fault (.exit c t)) →
    (s.Inv → t.Inv) ∧ (s.wf = true → t.wf = true) ∧
    ((.lrW ∉ s.cfg.implementedAtomics → .lrD ∉ s.cfg.implementedAtomics → s.resv = none) →
      (.lrW ∉ t.cfg.implementedAtomics → .lrD ∉ t.cfg.implementedAtomics → t.resv = none))

/-- The reset state has no region and empty memory, no reservation and x0 reading 0, and meets the invariant of
StepKeepsInvariant; so does a machine constructed with any registers, parameters and answers over a well-formed region
table and memory, which starts with no reservation. That no region exists at reset is the model's choice (assumption
log 5). (10_state.md rules R113, R140, 70_reset_and_hazards.md rules R1200, R1201) -/
def Obligations.ResetInvariant : Prop :=
  (State.reset.Inv ∧ State.reset.regions = [] ∧ State.reset.resv = none ∧ State.reset.getX 0 = 0) ∧
  ∀ x f regions mem cfg syscalls, (construct x f regions mem cfg syscalls).wf = true →
    (construct x f regions mem cfg syscalls).Inv ∧ (construct x f regions mem cfg syscalls).resv = none

/-- From every state with an even pc, a step that goes on gives a state with an even pc: branch and jump offsets that
decode are even, JALR clears bit 0, and every length is even. (10_state.md rule R108, 44_control.md rule R801) -/
def Obligations.PcStaysEven : Prop :=
  ∀ s t : State, s.pc.toNat % 2 = 0 → step s = .next t → t.pc.toNat % 2 = 0

/-- When an instruction goes on and is not a jump or a branch whose condition holds, the pc becomes pc + len with len its
own length, 4 or 2. (40_execution_cycle.md rule R504, 10_state.md rule R108) -/
def Obligations.FallThroughAdvances : Prop :=
  ∀ (i : Instr) (s t : State), exec i s = .next t → redirects i s = false → t.pc = s.pc + BitVec.ofNat 64 (instrLen i)

/-- When an instruction that is no store, AMO, SC or ECALL goes on, every byte reads as before; when any instruction but
ECALL goes on, the region table is unchanged; and no instruction changes the parameters. (20_memory.md rules R209,
R230, 10_state.md rules R110, R115) -/
def Obligations.OnlyStoresChangeMemory : Prop :=
  ∀ (i : Instr) (s t : State), exec i s = .next t →
    (storesMemory i = false → SameBytes s t) ∧ (i ≠ .ecall → t.regions = s.regions) ∧ t.cfg = s.cfg

/-- From every state whose regions and memory are well formed, a step that is not an ECALL and goes on leaves every byte
that lies in no writable region as it was. (20_memory.md rules R211, R213, R225) -/
def Obligations.ReadOnlyBytesKept : Prop :=
  ∀ (i : Instr) (s t : State), s.wf = true → i ≠ .ecall → exec i s = .next t →
    ∀ a, (∀ R ∈ s.regions, R.writable = true → ¬(R.base.toNat ≤ a ∧ a < R.base.toNat + R.length.toNat)) →
      t.mem.byte a = s.mem.byte a

/-- An instruction that ends with Unimplemented carries itself, and is one of the 52 floating-point instructions, or an
atomic that is not in the implemented set or is misaligned; and no instruction is refused. (60_exceptions.md rule
R1104, 46_float.md rule R939, 48_atomic.md rules R1050, R1054) -/
def Obligations.UnimplementedProducers : Prop :=
  (∀ (i j : Instr) (s : State), exec i s = .fault (.unimplemented j) → j = i ∧ (unimplementedFp i = true ∨
    ∃ op n rs1, atomicOf i = some (op, n, rs1) ∧ (op ∉ s.cfg.implementedAtomics ∨ (s.getX rs1).toNat % n ≠ 0))) ∧
  (∀ (i : Instr) (s : State) (r : Refusal), exec i s ≠ .refused r)

/-- In a well-formed state translate(a) is Some of a region and an index exactly when that region is in the table,
contains a, and the index is a minus its base; at most one region contains an address. (20_memory.md rules R201, R203,
10_state.md rule R111) -/
def Obligations.TranslateHitsOneRegion : Prop :=
  ∀ (s : State) (a k : Word) (R : Region), s.wf = true →
    (s.translate a = some (R, k) ↔
      R ∈ s.regions ∧ R.base.toNat ≤ a.toNat ∧ a.toNat < R.base.toNat + R.length.toNat ∧ k = a - R.base) ∧
    (∀ Q ∈ s.regions, R ∈ s.regions → Q.contains a = true → R.contains a = true → Q = R)

/-- With a length that is not 0 and a base that is page-aligned, meets no region and does not wrap, it returns the base
and the state has one more region there, owned and writable, of the length rounded up to the page size, whose bytes
all read 0, other bytes and the registers being unchanged; with length 0, any other base, no base, or a rounded length
of 2^64 or more (assumption log 13) it is an error. Which bases the draw may give is decision D23 and assumption log
12. (20_memory.md rules R204 to R206, 00_scope.md rule R12) -/
def Obligations.AllocateResults : Prop :=
  ∀ (s : State) (n b : Word) (stack : Bool),
    allocate n stack none s = .error .resourceError ∧
    if n ≠ 0 ∧ roundedLength s n < 2 ^ 64 ∧ b.toNat % max s.cfg.hostPageSize 4096 = 0 ∧
        b.toNat + roundedLength s n ≤ 2 ^ 64 ∧
        ∀ R ∈ s.regions, R.base.toNat + R.length.toNat ≤ b.toNat ∨ b.toNat + roundedLength s n ≤ R.base.toNat then
      ∃ t R, allocate n stack (some b) s = .ok (b, t) ∧
        R = ({ base := b, length := BitVec.ofNat 64 (roundedLength s n), writable := true, owned := true } : Region) ∧
        (∀ Q, Q ∈ t.regions ↔ Q = R ∨ Q ∈ s.regions) ∧
        (∀ a, b.toNat ≤ a → a < b.toNat + roundedLength s n → t.mem.byte a = 0) ∧
        SameBytesOutside s t b.toNat (roundedLength s n) ∧ SameX s t ∧ SameF s t ∧ t.pc = s.pc ∧ t.resv = s.resv
    else allocate n stack (some b) s = .error .resourceError

/-- After deallocate(a, n) a region is in the table exactly when it was and does not meet the range a to a + n - 1 of
unbounded integers; every byte outside the removed regions reads as before, and the registers are unchanged.
(20_memory.md rule R207, 92_eei_decisions.md D25) -/
def Obligations.DeallocateResults : Prop :=
  ∀ (s : State) (a n : Word),
    (∀ R, R ∈ (deallocate a n s).regions ↔ R ∈ s.regions ∧
      ¬(0 < n.toNat ∧ a.toNat < R.base.toNat + R.length.toNat ∧ R.base.toNat < a.toNat + n.toNat)) ∧
    (∀ x, (∀ R ∈ s.regions, R.base.toNat ≤ x → x < R.base.toNat + R.length.toNat → R ∈ (deallocate a n s).regions) →
      (deallocate a n s).mem.byte x = s.mem.byte x) ∧
    SameX s (deallocate a n s) ∧ SameF s (deallocate a n s) ∧ (deallocate a n s).pc = s.pc ∧
    (deallocate a n s).resv = s.resv

/-- With at least one byte and a base whose range meets no region and does not wrap, it returns the base and the state has
one more region there, borrowed, with the given tag and the exact length, whose bytes are the host bytes, other bytes
being unchanged; with no bytes, or a range that meets a region or wraps, it is an error. (20_memory.md rule R208,
92_eei_decisions.md D24) -/
def Obligations.RegisterResults : Prop :=
  ∀ (s : State) (b : Word) (writable : Bool) (bytes : List Byte), s.mem.wf = true → bytes.length < 2 ^ 64 →
    if bytes.length ≠ 0 ∧ b.toNat + bytes.length ≤ 2 ^ 64 ∧
        ∀ R ∈ s.regions, R.base.toNat + R.length.toNat ≤ b.toNat ∨ b.toNat + bytes.length ≤ R.base.toNat then
      ∃ t R, registerHostMemory b writable bytes s = .ok (b, t) ∧
        R = ({ base := b, length := BitVec.ofNat 64 bytes.length, writable := writable, owned := false } : Region) ∧
        (∀ Q, Q ∈ t.regions ↔ Q = R ∨ Q ∈ s.regions) ∧
        (∀ k, k < bytes.length → t.mem.byte (b.toNat + k) = bytes.getD k 0) ∧
        SameBytesOutside s t b.toNat bytes.length ∧ SameX s t ∧ SameF s t ∧ t.pc = s.pc ∧ t.resv = s.resv
    else registerHostMemory b writable bytes s = .error .resourceError

/-- If the allocation fails the stack installation fails with the same error; if it gives base b and state t, the result
is b and t with x2 = b + n, every other register as in t. (70_reset_and_hazards.md rule R1203) -/
def Obligations.InstallStackSetsSp : Prop :=
  ∀ (s : State) (n : Word) (draw : Option Word),
    (∀ e, allocate n true draw s = .error e → installStack n draw s = .error e) ∧
    (∀ b t, allocate n true draw s = .ok (b, t) →
      ∃ u, installStack n draw s = .ok (b, u) ∧ OnlyX t u 2 (b + n) ∧ SameF t u ∧ u.pc = t.pc ∧ u.mem = t.mem ∧
        u.regions = t.regions ∧ u.resv = t.resv)
end

