-- ==== Sys2Proof/Laws/Encoding.lean ====
section
/-! SUPPORT. What the decoder's field accessors read from the encoder's formats: one lemma per format and field, so that no
later proof unfolds a concatenation of bits. -/

namespace Sys2Proof

/-! ### Full formats -/

section

variable (funct7 : BitVec 7) (rs2 rs1 : BitVec 5) (funct3 : BitVec 3) (rd : BitVec 5) (op : BitVec 7)

@[simp] theorem opcodeOf_fmtR : opcodeOf (fmtR funct7 rs2 rs1 funct3 rd op) = op := by
  unfold opcodeOf fmtR
  ext i hi
  simp (disch := omega) only [BitVec.getElem_extractLsb', BitVec.getLsbD_append, if_pos]
  rw [BitVec.getLsbD_eq_getElem (by omega)]
  congr 1
  omega

@[simp] theorem rdOf_fmtR : rdOf (fmtR funct7 rs2 rs1 funct3 rd op) = rd := by
  unfold rdOf fmtR
  ext i hi
  simp (disch := omega) only [BitVec.getElem_extractLsb', BitVec.getLsbD_append, if_pos, if_neg]
  rw [BitVec.getLsbD_eq_getElem (by omega)]
  congr 1
  omega

@[simp] theorem funct3Of_fmtR : funct3Of (fmtR funct7 rs2 rs1 funct3 rd op) = funct3 := by
  unfold funct3Of fmtR
  ext i hi
  simp (disch := omega) only [BitVec.getElem_extractLsb', BitVec.getLsbD_append, if_pos, if_neg]
  rw [BitVec.getLsbD_eq_getElem (by omega)]
  congr 1
  omega

@[simp] theorem rs1Of_fmtR : rs1Of (fmtR funct7 rs2 rs1 funct3 rd op) = rs1 := by
  unfold rs1Of fmtR
  ext i hi
  simp (disch := omega) only [BitVec.getElem_extractLsb', BitVec.getLsbD_append, if_pos, if_neg]
  rw [BitVec.getLsbD_eq_getElem (by omega)]
  congr 1
  omega

@[simp] theorem rs2Of_fmtR : rs2Of (fmtR funct7 rs2 rs1 funct3 rd op) = rs2 := by
  unfold rs2Of fmtR
  ext i hi
  simp (disch := omega) only [BitVec.getElem_extractLsb', BitVec.getLsbD_append, if_pos, if_neg]
  rw [BitVec.getLsbD_eq_getElem (by omega)]
  congr 1
  omega

@[simp] theorem funct7Of_fmtR : funct7Of (fmtR funct7 rs2 rs1 funct3 rd op) = funct7 := by
  unfold funct7Of fmtR
  ext i hi
  simp (disch := omega) only [BitVec.getElem_extractLsb', BitVec.getLsbD_append, if_neg]
  rw [BitVec.getLsbD_eq_getElem (by omega)]
  congr 1
  omega

end

section

variable (imm : Word) (rs1 : BitVec 5) (funct3 : BitVec 3) (rd : BitVec 5) (op : BitVec 7)

@[simp] theorem opcodeOf_fmtI : opcodeOf (fmtI imm rs1 funct3 rd op) = op := by
  unfold opcodeOf fmtI
  ext i hi
  simp (disch := omega) only [BitVec.getElem_extractLsb', BitVec.getLsbD_append, if_pos]
  rw [BitVec.getLsbD_eq_getElem (by omega)]
  congr 1
  omega

@[simp] theorem rdOf_fmtI : rdOf (fmtI imm rs1 funct3 rd op) = rd := by
  unfold rdOf fmtI
  ext i hi
  simp (disch := omega) only [BitVec.getElem_extractLsb', BitVec.getLsbD_append, if_pos, if_neg]
  rw [BitVec.getLsbD_eq_getElem (by omega)]
  congr 1
  omega

@[simp] theorem funct3Of_fmtI : funct3Of (fmtI imm rs1 funct3 rd op) = funct3 := by
  unfold funct3Of fmtI
  ext i hi
  simp (disch := omega) only [BitVec.getElem_extractLsb', BitVec.getLsbD_append, if_pos, if_neg]
  rw [BitVec.getLsbD_eq_getElem (by omega)]
  congr 1
  omega

@[simp] theorem rs1Of_fmtI : rs1Of (fmtI imm rs1 funct3 rd op) = rs1 := by
  unfold rs1Of fmtI
  ext i hi
  simp (disch := omega) only [BitVec.getElem_extractLsb', BitVec.getLsbD_append, if_pos, if_neg]
  rw [BitVec.getLsbD_eq_getElem (by omega)]
  congr 1
  omega

end

section

variable (imm : Word) (rs2 rs1 : BitVec 5) (funct3 : BitVec 3) (op : BitVec 7)

@[simp] theorem opcodeOf_fmtS : opcodeOf (fmtS imm rs2 rs1 funct3 op) = op := by
  unfold opcodeOf fmtS
  ext i hi
  simp (disch := omega) only [BitVec.getElem_extractLsb', BitVec.getLsbD_append, if_pos]
  rw [BitVec.getLsbD_eq_getElem (by omega)]
  congr 1
  omega

@[simp] theorem funct3Of_fmtS : funct3Of (fmtS imm rs2 rs1 funct3 op) = funct3 := by
  unfold funct3Of fmtS
  ext i hi
  simp (disch := omega) only [BitVec.getElem_extractLsb', BitVec.getLsbD_append, if_pos, if_neg]
  rw [BitVec.getLsbD_eq_getElem (by omega)]
  congr 1
  omega

@[simp] theorem rs1Of_fmtS : rs1Of (fmtS imm rs2 rs1 funct3 op) = rs1 := by
  unfold rs1Of fmtS
  ext i hi
  simp (disch := omega) only [BitVec.getElem_extractLsb', BitVec.getLsbD_append, if_pos, if_neg]
  rw [BitVec.getLsbD_eq_getElem (by omega)]
  congr 1
  omega

@[simp] theorem rs2Of_fmtS : rs2Of (fmtS imm rs2 rs1 funct3 op) = rs2 := by
  unfold rs2Of fmtS
  ext i hi
  simp (disch := omega) only [BitVec.getElem_extractLsb', BitVec.getLsbD_append, if_pos, if_neg]
  rw [BitVec.getLsbD_eq_getElem (by omega)]
  congr 1
  omega

end

section

variable (imm : Word) (rs2 rs1 : BitVec 5) (funct3 : BitVec 3) (op : BitVec 7)

@[simp] theorem opcodeOf_fmtB : opcodeOf (fmtB imm rs2 rs1 funct3 op) = op := by
  unfold opcodeOf fmtB
  ext i hi
  simp (disch := omega) only [BitVec.getElem_extractLsb', BitVec.getLsbD_append, if_pos]
  rw [BitVec.getLsbD_eq_getElem (by omega)]
  congr 1
  omega

@[simp] theorem funct3Of_fmtB : funct3Of (fmtB imm rs2 rs1 funct3 op) = funct3 := by
  unfold funct3Of fmtB
  ext i hi
  simp (disch := omega) only [BitVec.getElem_extractLsb', BitVec.getLsbD_append, if_pos, if_neg]
  rw [BitVec.getLsbD_eq_getElem (by omega)]
  congr 1
  omega

@[simp] theorem rs1Of_fmtB : rs1Of (fmtB imm rs2 rs1 funct3 op) = rs1 := by
  unfold rs1Of fmtB
  ext i hi
  simp (disch := omega) only [BitVec.getElem_extractLsb', BitVec.getLsbD_append, if_pos, if_neg]
  rw [BitVec.getLsbD_eq_getElem (by omega)]
  congr 1
  omega

@[simp] theorem rs2Of_fmtB : rs2Of (fmtB imm rs2 rs1 funct3 op) = rs2 := by
  unfold rs2Of fmtB
  ext i hi
  simp (disch := omega) only [BitVec.getElem_extractLsb', BitVec.getLsbD_append, if_pos, if_neg]
  rw [BitVec.getLsbD_eq_getElem (by omega)]
  congr 1
  omega

end

section

variable (imm : Word) (rd : BitVec 5) (op : BitVec 7)

@[simp] theorem opcodeOf_fmtU : opcodeOf (fmtU imm rd op) = op := by
  unfold opcodeOf fmtU
  ext i hi
  simp (disch := omega) only [BitVec.getElem_extractLsb', BitVec.getLsbD_append, if_pos]
  rw [BitVec.getLsbD_eq_getElem (by omega)]
  congr 1
  omega

@[simp] theorem rdOf_fmtU : rdOf (fmtU imm rd op) = rd := by
  unfold rdOf fmtU
  ext i hi
  simp (disch := omega) only [BitVec.getElem_extractLsb', BitVec.getLsbD_append, if_pos, if_neg]
  rw [BitVec.getLsbD_eq_getElem (by omega)]
  congr 1
  omega

end

section

variable (imm : Word) (rd : BitVec 5) (op : BitVec 7)

@[simp] theorem opcodeOf_fmtJ : opcodeOf (fmtJ imm rd op) = op := by
  unfold opcodeOf fmtJ
  ext i hi
  simp (disch := omega) only [BitVec.getElem_extractLsb', BitVec.getLsbD_append, if_pos]
  rw [BitVec.getLsbD_eq_getElem (by omega)]
  congr 1
  omega

@[simp] theorem rdOf_fmtJ : rdOf (fmtJ imm rd op) = rd := by
  unfold rdOf fmtJ
  ext i hi
  simp (disch := omega) only [BitVec.getElem_extractLsb', BitVec.getLsbD_append, if_pos, if_neg]
  rw [BitVec.getLsbD_eq_getElem (by omega)]
  congr 1
  omega

end

section

variable (rs3 : BitVec 5) (funct2 : BitVec 2) (rs2 rs1 : BitVec 5) (rm : BitVec 3) (rd : BitVec 5) (op : BitVec 7)

@[simp] theorem opcodeOf_fmtR4 : opcodeOf (fmtR4 rs3 funct2 rs2 rs1 rm rd op) = op := by
  unfold opcodeOf fmtR4
  ext i hi
  simp (disch := omega) only [BitVec.getElem_extractLsb', BitVec.getLsbD_append, if_pos]
  rw [BitVec.getLsbD_eq_getElem (by omega)]
  congr 1
  omega

@[simp] theorem rdOf_fmtR4 : rdOf (fmtR4 rs3 funct2 rs2 rs1 rm rd op) = rd := by
  unfold rdOf fmtR4
  ext i hi
  simp (disch := omega) only [BitVec.getElem_extractLsb', BitVec.getLsbD_append, if_pos, if_neg]
  rw [BitVec.getLsbD_eq_getElem (by omega)]
  congr 1
  omega

@[simp] theorem funct3Of_fmtR4 : funct3Of (fmtR4 rs3 funct2 rs2 rs1 rm rd op) = rm := by
  unfold funct3Of fmtR4
  ext i hi
  simp (disch := omega) only [BitVec.getElem_extractLsb', BitVec.getLsbD_append, if_pos, if_neg]
  rw [BitVec.getLsbD_eq_getElem (by omega)]
  congr 1
  omega

@[simp] theorem rs1Of_fmtR4 : rs1Of (fmtR4 rs3 funct2 rs2 rs1 rm rd op) = rs1 := by
  unfold rs1Of fmtR4
  ext i hi
  simp (disch := omega) only [BitVec.getElem_extractLsb', BitVec.getLsbD_append, if_pos, if_neg]
  rw [BitVec.getLsbD_eq_getElem (by omega)]
  congr 1
  omega

@[simp] theorem rs2Of_fmtR4 : rs2Of (fmtR4 rs3 funct2 rs2 rs1 rm rd op) = rs2 := by
  unfold rs2Of fmtR4
  ext i hi
  simp (disch := omega) only [BitVec.getElem_extractLsb', BitVec.getLsbD_append, if_pos, if_neg]
  rw [BitVec.getLsbD_eq_getElem (by omega)]
  congr 1
  omega

@[simp] theorem funct2Of_fmtR4 : funct2Of (fmtR4 rs3 funct2 rs2 rs1 rm rd op) = funct2 := by
  unfold funct2Of fmtR4
  ext i hi
  simp (disch := omega) only [BitVec.getElem_extractLsb', BitVec.getLsbD_append, if_pos, if_neg]
  rw [BitVec.getLsbD_eq_getElem (by omega)]
  congr 1
  omega

@[simp] theorem funct5Of_fmtR4 : funct5Of (fmtR4 rs3 funct2 rs2 rs1 rm rd op) = rs3 := by
  unfold funct5Of fmtR4
  ext i hi
  simp (disch := omega) only [BitVec.getElem_extractLsb', BitVec.getLsbD_append, if_neg]
  rw [BitVec.getLsbD_eq_getElem (by omega)]
  congr 1
  omega

end

section

variable (funct6 shamt : BitVec 6) (rs1 : BitVec 5) (funct3 : BitVec 3) (rd : BitVec 5) (op : BitVec 7)

@[simp] theorem opcodeOf_fmtShift64 : opcodeOf (fmtShift64 funct6 shamt rs1 funct3 rd op) = op := by
  unfold opcodeOf fmtShift64
  ext i hi
  simp (disch := omega) only [BitVec.getElem_extractLsb', BitVec.getLsbD_append, if_pos]
  rw [BitVec.getLsbD_eq_getElem (by omega)]
  congr 1
  omega

@[simp] theorem rdOf_fmtShift64 : rdOf (fmtShift64 funct6 shamt rs1 funct3 rd op) = rd := by
  unfold rdOf fmtShift64
  ext i hi
  simp (disch := omega) only [BitVec.getElem_extractLsb', BitVec.getLsbD_append, if_pos, if_neg]
  rw [BitVec.getLsbD_eq_getElem (by omega)]
  congr 1
  omega

@[simp] theorem funct3Of_fmtShift64 : funct3Of (fmtShift64 funct6 shamt rs1 funct3 rd op) = funct3 := by
  unfold funct3Of fmtShift64
  ext i hi
  simp (disch := omega) only [BitVec.getElem_extractLsb', BitVec.getLsbD_append, if_pos, if_neg]
  rw [BitVec.getLsbD_eq_getElem (by omega)]
  congr 1
  omega

@[simp] theorem rs1Of_fmtShift64 : rs1Of (fmtShift64 funct6 shamt rs1 funct3 rd op) = rs1 := by
  unfold rs1Of fmtShift64
  ext i hi
  simp (disch := omega) only [BitVec.getElem_extractLsb', BitVec.getLsbD_append, if_pos, if_neg]
  rw [BitVec.getLsbD_eq_getElem (by omega)]
  congr 1
  omega

@[simp] theorem shamt6Of_fmtShift64 : shamt6Of (fmtShift64 funct6 shamt rs1 funct3 rd op) = shamt := by
  unfold shamt6Of fmtShift64
  ext i hi
  simp (disch := omega) only [BitVec.getElem_extractLsb', BitVec.getLsbD_append, if_pos, if_neg]
  rw [BitVec.getLsbD_eq_getElem (by omega)]
  congr 1
  omega

@[simp] theorem funct6Of_fmtShift64 : funct6Of (fmtShift64 funct6 shamt rs1 funct3 rd op) = funct6 := by
  unfold funct6Of fmtShift64
  ext i hi
  simp (disch := omega) only [BitVec.getElem_extractLsb', BitVec.getLsbD_append, if_neg]
  rw [BitVec.getLsbD_eq_getElem (by omega)]
  congr 1
  omega

end

section

variable (funct5 : BitVec 5) (aq rl : BitVec 1) (rs2 rs1 : BitVec 5) (funct3 : BitVec 3) (rd : BitVec 5) (op : BitVec 7)

@[simp] theorem opcodeOf_fmtAmo : opcodeOf (fmtAmo funct5 aq rl rs2 rs1 funct3 rd op) = op := by
  unfold opcodeOf fmtAmo
  ext i hi
  simp (disch := omega) only [BitVec.getElem_extractLsb', BitVec.getLsbD_append, if_pos]
  rw [BitVec.getLsbD_eq_getElem (by omega)]
  congr 1
  omega

@[simp] theorem rdOf_fmtAmo : rdOf (fmtAmo funct5 aq rl rs2 rs1 funct3 rd op) = rd := by
  unfold rdOf fmtAmo
  ext i hi
  simp (disch := omega) only [BitVec.getElem_extractLsb', BitVec.getLsbD_append, if_pos, if_neg]
  rw [BitVec.getLsbD_eq_getElem (by omega)]
  congr 1
  omega

@[simp] theorem funct3Of_fmtAmo : funct3Of (fmtAmo funct5 aq rl rs2 rs1 funct3 rd op) = funct3 := by
  unfold funct3Of fmtAmo
  ext i hi
  simp (disch := omega) only [BitVec.getElem_extractLsb', BitVec.getLsbD_append, if_pos, if_neg]
  rw [BitVec.getLsbD_eq_getElem (by omega)]
  congr 1
  omega

@[simp] theorem rs1Of_fmtAmo : rs1Of (fmtAmo funct5 aq rl rs2 rs1 funct3 rd op) = rs1 := by
  unfold rs1Of fmtAmo
  ext i hi
  simp (disch := omega) only [BitVec.getElem_extractLsb', BitVec.getLsbD_append, if_pos, if_neg]
  rw [BitVec.getLsbD_eq_getElem (by omega)]
  congr 1
  omega

@[simp] theorem rs2Of_fmtAmo : rs2Of (fmtAmo funct5 aq rl rs2 rs1 funct3 rd op) = rs2 := by
  unfold rs2Of fmtAmo
  ext i hi
  simp (disch := omega) only [BitVec.getElem_extractLsb', BitVec.getLsbD_append, if_pos, if_neg]
  rw [BitVec.getLsbD_eq_getElem (by omega)]
  congr 1
  omega

@[simp] theorem rlOf_fmtAmo : rlOf (fmtAmo funct5 aq rl rs2 rs1 funct3 rd op) = rl := by
  unfold rlOf fmtAmo
  ext i hi
  simp (disch := omega) only [BitVec.getElem_extractLsb', BitVec.getLsbD_append, if_pos, if_neg]
  rw [BitVec.getLsbD_eq_getElem (by omega)]
  congr 1
  omega

@[simp] theorem aqOf_fmtAmo : aqOf (fmtAmo funct5 aq rl rs2 rs1 funct3 rd op) = aq := by
  unfold aqOf fmtAmo
  ext i hi
  simp (disch := omega) only [BitVec.getElem_extractLsb', BitVec.getLsbD_append, if_pos, if_neg]
  rw [BitVec.getLsbD_eq_getElem (by omega)]
  congr 1
  omega

@[simp] theorem funct5Of_fmtAmo : funct5Of (fmtAmo funct5 aq rl rs2 rs1 funct3 rd op) = funct5 := by
  unfold funct5Of fmtAmo
  ext i hi
  simp (disch := omega) only [BitVec.getElem_extractLsb', BitVec.getLsbD_append, if_neg]
  rw [BitVec.getLsbD_eq_getElem (by omega)]
  congr 1
  omega

end

section

variable (fm pred succ : BitVec 4) (rs1 : BitVec 5) (funct3 : BitVec 3) (rd : BitVec 5) (op : BitVec 7)

@[simp] theorem opcodeOf_fmtFence : opcodeOf (fmtFence fm pred succ rs1 funct3 rd op) = op := by
  unfold opcodeOf fmtFence
  ext i hi
  simp (disch := omega) only [BitVec.getElem_extractLsb', BitVec.getLsbD_append, if_pos]
  rw [BitVec.getLsbD_eq_getElem (by omega)]
  congr 1
  omega

@[simp] theorem rdOf_fmtFence : rdOf (fmtFence fm pred succ rs1 funct3 rd op) = rd := by
  unfold rdOf fmtFence
  ext i hi
  simp (disch := omega) only [BitVec.getElem_extractLsb', BitVec.getLsbD_append, if_pos, if_neg]
  rw [BitVec.getLsbD_eq_getElem (by omega)]
  congr 1
  omega

@[simp] theorem funct3Of_fmtFence : funct3Of (fmtFence fm pred succ rs1 funct3 rd op) = funct3 := by
  unfold funct3Of fmtFence
  ext i hi
  simp (disch := omega) only [BitVec.getElem_extractLsb', BitVec.getLsbD_append, if_pos, if_neg]
  rw [BitVec.getLsbD_eq_getElem (by omega)]
  congr 1
  omega

@[simp] theorem rs1Of_fmtFence : rs1Of (fmtFence fm pred succ rs1 funct3 rd op) = rs1 := by
  unfold rs1Of fmtFence
  ext i hi
  simp (disch := omega) only [BitVec.getElem_extractLsb', BitVec.getLsbD_append, if_pos, if_neg]
  rw [BitVec.getLsbD_eq_getElem (by omega)]
  congr 1
  omega

end

/-! ### The quadrant of the compressed formats -/

@[simp] theorem quadrant_fmtCR (funct4 : BitVec 4) (r rs2 : BitVec 5) : (fmtCR funct4 r rs2).extractLsb' 0 2 = 0b10#2 := by
  unfold fmtCR
  ext i hi
  simp (disch := omega) only [BitVec.getElem_extractLsb', BitVec.getLsbD_append, if_pos]
  rw [BitVec.getLsbD_eq_getElem (by omega)]
  congr 1
  omega

@[simp] theorem quadrant_fmtCI (funct3 : BitVec 3) (hi : BitVec 1) (r lo : BitVec 5) (op : BitVec 2) : (fmtCI funct3 hi r lo op).extractLsb' 0 2 = op := by
  unfold fmtCI
  ext i hi
  simp (disch := omega) only [BitVec.getElem_extractLsb', BitVec.getLsbD_append, if_pos]
  rw [BitVec.getLsbD_eq_getElem (by omega)]
  congr 1
  omega

@[simp] theorem quadrant_fmtCSS (funct3 : BitVec 3) (imm : BitVec 6) (rs2 : BitVec 5) : (fmtCSS funct3 imm rs2).extractLsb' 0 2 = 0b10#2 := by
  unfold fmtCSS
  ext i hi
  simp (disch := omega) only [BitVec.getElem_extractLsb', BitVec.getLsbD_append, if_pos]
  rw [BitVec.getLsbD_eq_getElem (by omega)]
  congr 1
  omega

@[simp] theorem quadrant_fmtCIW (funct3 : BitVec 3) (imm : BitVec 8) (rd : BitVec 5) : (fmtCIW funct3 imm rd).extractLsb' 0 2 = 0b00#2 := by
  unfold fmtCIW
  ext i hi
  simp (disch := omega) only [BitVec.getElem_extractLsb', BitVec.getLsbD_append, if_pos]
  rw [BitVec.getLsbD_eq_getElem (by omega)]
  congr 1
  omega

@[simp] theorem quadrant_fmtCL (funct3 : BitVec 3) (hi : BitVec 3) (rs1 : BitVec 5) (lo : BitVec 2) (r : BitVec 5) : (fmtCL funct3 hi rs1 lo r).extractLsb' 0 2 = 0b00#2 := by
  unfold fmtCL
  ext i hi
  simp (disch := omega) only [BitVec.getElem_extractLsb', BitVec.getLsbD_append, if_pos]
  rw [BitVec.getLsbD_eq_getElem (by omega)]
  congr 1
  omega

@[simp] theorem quadrant_fmtCA (funct6 : BitVec 6) (rd : BitVec 5) (funct2 : BitVec 2) (rs2 : BitVec 5) : (fmtCA funct6 rd funct2 rs2).extractLsb' 0 2 = 0b01#2 := by
  unfold fmtCA
  ext i hi
  simp (disch := omega) only [BitVec.getElem_extractLsb', BitVec.getLsbD_append, if_pos]
  rw [BitVec.getLsbD_eq_getElem (by omega)]
  congr 1
  omega

@[simp] theorem quadrant_fmtCB (funct3 : BitVec 3) (hi : BitVec 3) (r lo : BitVec 5) : (fmtCB funct3 hi r lo).extractLsb' 0 2 = 0b01#2 := by
  unfold fmtCB
  ext i hi
  simp (disch := omega) only [BitVec.getElem_extractLsb', BitVec.getLsbD_append, if_pos]
  rw [BitVec.getLsbD_eq_getElem (by omega)]
  congr 1
  omega

@[simp] theorem quadrant_fmtCJ (funct3 : BitVec 3) (target : BitVec 11) : (fmtCJ funct3 target).extractLsb' 0 2 = 0b01#2 := by
  unfold fmtCJ
  ext i hi
  simp (disch := omega) only [BitVec.getElem_extractLsb', BitVec.getLsbD_append, if_pos]
  rw [BitVec.getLsbD_eq_getElem (by omega)]
  congr 1
  omega

end Sys2Proof
end

