-- ==== Sys2Proof/Laws/State.lean ====
section
/-! SUPPORT. What each update of the state does to each field: one lemma per field and update, so that no proof unfolds a
record update. -/

namespace Sys2Proof.Machine

/-! ### Writing a floating register -/

@[simp] theorem State.setF_pc (s : State) (r : FReg) (v : Word) : (s.setF r v).pc = s.pc := rfl

@[simp] theorem State.setF_x (s : State) (r : FReg) (v : Word) : (s.setF r v).x = s.x := rfl

@[simp] theorem State.setF_regions (s : State) (r : FReg) (v : Word) : (s.setF r v).regions = s.regions := rfl

@[simp] theorem State.setF_mem (s : State) (r : FReg) (v : Word) : (s.setF r v).mem = s.mem := rfl

@[simp] theorem State.setF_resv (s : State) (r : FReg) (v : Word) : (s.setF r v).resv = s.resv := rfl

@[simp] theorem State.setF_cfg (s : State) (r : FReg) (v : Word) : (s.setF r v).cfg = s.cfg := rfl

@[simp] theorem State.setF_syscalls (s : State) (r : FReg) (v : Word) : (s.setF r v).syscalls = s.syscalls := rfl

/-! ### Writing an integer register -/

@[simp] theorem State.setX_pc (s : State) (r : XReg) (v : Word) : (s.setX r v).pc = s.pc := by
  unfold State.setX; split <;> rfl

@[simp] theorem State.setX_f (s : State) (r : XReg) (v : Word) : (s.setX r v).f = s.f := by
  unfold State.setX; split <;> rfl

@[simp] theorem State.setX_regions (s : State) (r : XReg) (v : Word) : (s.setX r v).regions = s.regions := by
  unfold State.setX; split <;> rfl

@[simp] theorem State.setX_mem (s : State) (r : XReg) (v : Word) : (s.setX r v).mem = s.mem := by
  unfold State.setX; split <;> rfl

@[simp] theorem State.setX_resv (s : State) (r : XReg) (v : Word) : (s.setX r v).resv = s.resv := by
  unfold State.setX; split <;> rfl

@[simp] theorem State.setX_cfg (s : State) (r : XReg) (v : Word) : (s.setX r v).cfg = s.cfg := by
  unfold State.setX; split <;> rfl

@[simp] theorem State.setX_syscalls (s : State) (r : XReg) (v : Word) : (s.setX r v).syscalls = s.syscalls := by
  unfold State.setX; split <;> rfl

/-! ### Register reads after other updates -/

@[simp] theorem State.getX_with_pc (s : State) (v : Word) (r : XReg) : ({ s with pc := v } : State).getX r = s.getX r := rfl

@[simp] theorem State.getF_with_pc (s : State) (v : Word) (r : FReg) : ({ s with pc := v } : State).getF r = s.getF r := rfl

@[simp] theorem State.getF_with_x (s : State) (v : Vector Word 31) (r : FReg) : ({ s with x := v } : State).getF r = s.getF r := rfl

@[simp] theorem State.getX_with_f (s : State) (v : Vector Word 32) (r : XReg) : ({ s with f := v } : State).getX r = s.getX r := rfl

@[simp] theorem State.getX_with_regions (s : State) (v : List Region) (r : XReg) : ({ s with regions := v } : State).getX r = s.getX r := rfl

@[simp] theorem State.getF_with_regions (s : State) (v : List Region) (r : FReg) : ({ s with regions := v } : State).getF r = s.getF r := rfl

@[simp] theorem State.getX_with_mem (s : State) (v : Memory) (r : XReg) : ({ s with mem := v } : State).getX r = s.getX r := rfl

@[simp] theorem State.getF_with_mem (s : State) (v : Memory) (r : FReg) : ({ s with mem := v } : State).getF r = s.getF r := rfl

@[simp] theorem State.getX_with_resv (s : State) (v : Option (Word × ResvWidth)) (r : XReg) : ({ s with resv := v } : State).getX r = s.getX r := rfl

@[simp] theorem State.getF_with_resv (s : State) (v : Option (Word × ResvWidth)) (r : FReg) : ({ s with resv := v } : State).getF r = s.getF r := rfl

@[simp] theorem State.getX_with_cfg (s : State) (v : Config) (r : XReg) : ({ s with cfg := v } : State).getX r = s.getX r := rfl

@[simp] theorem State.getF_with_cfg (s : State) (v : Config) (r : FReg) : ({ s with cfg := v } : State).getF r = s.getF r := rfl

@[simp] theorem State.getX_with_syscalls (s : State) (v : List SyscallAnswer) (r : XReg) : ({ s with syscalls := v } : State).getX r = s.getX r := rfl

@[simp] theorem State.getF_with_syscalls (s : State) (v : List SyscallAnswer) (r : FReg) : ({ s with syscalls := v } : State).getF r = s.getF r := rfl

@[simp] theorem State.getF_setX (s : State) (r : XReg) (v : Word) (q : FReg) : (s.setX r v).getF q = s.getF q := by
  unfold State.setX; split <;> rfl

@[simp] theorem State.getX_setF (s : State) (r : FReg) (v : Word) (q : XReg) : (s.setF r v).getX q = s.getX q := rfl

/-- Reads of integer registers depend on nothing but the stored registers. -/
theorem State.getX_congr {s t : State} (h : t.x = s.x) (r : XReg) : t.getX r = s.getX r := by
  unfold State.getX
  rw [h]

/-- Reads of floating registers depend on nothing but the stored registers. -/
theorem State.getF_congr {s t : State} (h : t.f = s.f) (r : FReg) : t.getF r = s.getF r := by
  unfold State.getF
  rw [h]

/-! ### Registers after a register write -/

/-- `x0` reads as 0. -/
@[simp] theorem State.getX_zero (s : State) : s.getX 0#5 = 0#64 := by simp [State.getX]

/-- A write of `x0` does nothing. -/
@[simp] theorem State.setX_zero (s : State) (v : Word) : s.setX 0#5 v = s := by simp [State.setX]

/-- A register that is not `x0` reads as written. -/
theorem State.getX_setX_same (s : State) (r : XReg) (v : Word) (h : r ≠ 0) : (s.setX r v).getX r = v := by
  have h' : r ≠ 0#5 := h
  simp [State.getX, State.setX, h']

/-- Every other register reads as before. -/
theorem State.getX_setX_ne (s : State) (r q : XReg) (v : Word) (h : q ≠ r) : (s.setX r v).getX q = s.getX q := by
  unfold State.setX
  split
  · rfl
  · next hr =>
    unfold State.getX
    split
    · rfl
    · next hq =>
      simp only
      rw [Vector.getElem_set_ne]
      have h0 : r.toNat ≠ 0 := fun e => hr (BitVec.eq_of_toNat_eq (by simpa using e))
      have h1 : q.toNat ≠ 0 := fun e => hq (BitVec.eq_of_toNat_eq (by simpa using e))
      have h2 : q.toNat ≠ r.toNat := fun e => h (BitVec.eq_of_toNat_eq e)
      omega

/-- Any register after a write of one. -/
theorem State.getX_setX (s : State) (r q : XReg) (v : Word) :
    (s.setX r v).getX q = if q = r ∧ r ≠ 0 then v else s.getX q := by
  by_cases hq : q = r
  · subst hq
    by_cases h0 : q = 0#5
    · subst h0; simp
    · simp [h0, State.getX_setX_same s q v h0]
  · simp [hq, State.getX_setX_ne s r q v hq]

/-- Any floating register after a write of one. -/
theorem State.getF_setF (s : State) (r q : FReg) (v : Word) :
    (s.setF r v).getF q = if q = r then v else s.getF q := by
  unfold State.getF State.setF
  split
  · next h => subst h; simp
  · next h =>
    simp only
    rw [Vector.getElem_set_ne]
    exact fun e => h (BitVec.eq_of_toNat_eq e.symm)

end Sys2Proof.Machine
end

