-- ==== Sys2Proof/Laws/Memory.lean ====
section
/-! SUPPORT. The laws of the memory operations: what each byte reads as afterwards, and that every operation keeps the
canonical form. -/

namespace Sys2Proof.Machine

/-! ### The canonical form, head by head -/

/-- The tail of a canonical memory is canonical. -/
theorem Memory.wf_tail {c : Host.Cell} {m : Memory} (h : Memory.wf (c :: m) = true) : Memory.wf m = true := by
  obtain ⟨a, b⟩ := c
  simp only [Memory.wf, Bool.and_eq_true] at h
  exact h.2

/-- The head of a canonical memory does not hold the unlisted byte. -/
theorem Memory.wf_head_ne {a : Nat} {b : Byte} {m : Memory} (h : Memory.wf ((a, b) :: m) = true) : b ≠ unlistedByte := by
  simp only [Memory.wf, Bool.and_eq_true, bne_iff_ne] at h
  exact h.1.1

/-- Every address after the head of a canonical memory is above it. -/
theorem Memory.wf_head_lt {a : Nat} {b : Byte} {m : Memory} (h : Memory.wf ((a, b) :: m) = true) :
    ∀ c ∈ m, a < c.1 := by
  induction m generalizing a b with
  | nil => simp
  | cons d rest ih =>
    obtain ⟨k, e⟩ := d
    have hk : a < k := by
      simp only [Memory.wf, Bool.and_eq_true, decide_eq_true_eq] at h
      exact h.1.2
    intro c hc
    rcases List.mem_cons.1 hc with rfl | hc
    · exact hk
    · exact Nat.lt_trans hk (ih (Memory.wf_tail h) c hc)

/-- A head below every address of a canonical memory, holding a listed byte, gives a canonical memory. -/
theorem Memory.wf_cons {a : Nat} {b : Byte} {m : Memory} (hb : b ≠ unlistedByte) (hlt : ∀ c ∈ m, a < c.1)
    (hm : Memory.wf m = true) : Memory.wf ((a, b) :: m) = true := by
  cases m with
  | nil => simp [Memory.wf, hb]
  | cons d rest =>
    obtain ⟨k, e⟩ := d
    have hk : a < k := hlt (k, e) (by simp)
    have h2 : Memory.wf ((a, b) :: (k, e) :: rest)
        = (b != unlistedByte && decide (a < k) && Memory.wf ((k, e) :: rest)) := rfl
    rw [h2, hm]
    simp [hb, hk]

/-! ### Reading -/

@[simp] theorem Memory.byte_nil (a : Nat) : Memory.byte [] a = unlistedByte := rfl

/-- Below every listed address a memory reads as unlisted. -/
theorem Memory.byte_of_lt {m : Memory} {a : Nat} (h : ∀ c ∈ m, a < c.1) : m.byte a = unlistedByte := by
  induction m with
  | nil => rfl
  | cons d rest ih =>
    obtain ⟨k, e⟩ := d
    have hk : a < k := h (k, e) (by simp)
    have hne : k ≠ a := by omega
    simp only [Memory.byte, hne, if_false]
    exact ih fun c hc => h c (by simp [hc])

/-- A byte that is not the unlisted byte is listed. -/
theorem Memory.mem_of_byte_ne {m : Memory} {a : Nat} (h : m.byte a ≠ unlistedByte) : (a, m.byte a) ∈ m := by
  induction m with
  | nil => exact absurd rfl h
  | cons d rest ih =>
    obtain ⟨k, e⟩ := d
    by_cases hk : k = a
    · subst hk; simp [Memory.byte]
    · simp only [Memory.byte, hk, if_false] at h ⊢
      exact List.mem_cons_of_mem _ (ih h)

/-- A listed cell of a canonical memory is what its address reads as. -/
theorem Memory.byte_of_mem {m : Memory} (h : m.wf = true) {c : Host.Cell} (hc : c ∈ m) : m.byte c.1 = c.2 := by
  induction m with
  | nil => simp at hc
  | cons d rest ih =>
    obtain ⟨k, e⟩ := d
    rcases List.mem_cons.1 hc with rfl | hc'
    · simp [Memory.byte]
    · have hlt := Memory.wf_head_lt h c hc'
      have hne : k ≠ c.1 := by omega
      simp only [Memory.byte, hne, if_false]
      exact ih (Memory.wf_tail h) hc'

/-- Two canonical memories with the same bytes are equal. -/
theorem Memory.ext_of_byte {m n : Memory} (hm : m.wf = true) (hn : n.wf = true)
    (h : ∀ a, m.byte a = n.byte a) : m = n := by
  induction m generalizing n with
  | nil =>
    cases n with
    | nil => rfl
    | cons d rest =>
      obtain ⟨k, e⟩ := d
      exact absurd (by simpa [Memory.byte] using (h k).symm) (Memory.wf_head_ne hn)
  | cons c rest ih =>
    obtain ⟨a, b⟩ := c
    cases n with
    | nil => exact absurd (by simpa [Memory.byte] using h a) (Memory.wf_head_ne hm)
    | cons d rest' =>
      obtain ⟨k, e⟩ := d
      have hak : a = k := by
        rcases Nat.lt_trichotomy a k with hlt | heq | hgt
        · have h1 : Memory.byte ((k, e) :: rest') a = unlistedByte := Memory.byte_of_lt (by
            intro c hc
            rcases List.mem_cons.1 hc with rfl | hc
            · exact hlt
            · exact Nat.lt_trans hlt (Memory.wf_head_lt hn c hc))
          have h2 := h a
          rw [h1] at h2
          exact absurd (by simpa [Memory.byte] using h2) (Memory.wf_head_ne hm)
        · exact heq
        · have h1 : Memory.byte ((a, b) :: rest) k = unlistedByte := Memory.byte_of_lt (by
            intro c hc
            rcases List.mem_cons.1 hc with rfl | hc
            · exact hgt
            · exact Nat.lt_trans hgt (Memory.wf_head_lt hm c hc))
          have h2 := h k
          rw [h1] at h2
          exact absurd (by simpa [Memory.byte] using h2.symm) (Memory.wf_head_ne hn)
      subst hak
      have hbe : b = e := by simpa [Memory.byte] using h a
      subst hbe
      congr 1
      refine ih (Memory.wf_tail hm) (Memory.wf_tail hn) fun x => ?_
      by_cases hx : a = x
      · subst hx
        rw [Memory.byte_of_lt (Memory.wf_head_lt hm), Memory.byte_of_lt (Memory.wf_head_lt hn)]
      · simpa [Memory.byte, hx] using h x

/-! ### Writing one byte -/

/-- The cells after a write of one byte: old cells, or the written one. -/
theorem Memory.mem_setByte {m : Memory} {a : Nat} {b : Byte} {c : Host.Cell} (h : c ∈ m.setByte a b) :
    c ∈ m ∨ c = (a, b) := by
  induction m with
  | nil =>
    unfold Memory.setByte at h
    split at h
    · simp at h
    · exact Or.inr (by simpa using h)
  | cons d rest ih =>
    obtain ⟨k, e⟩ := d
    unfold Memory.setByte at h
    split at h
    · split at h
      · exact Or.inl h
      · rcases List.mem_cons.1 h with h | h
        · exact Or.inr h
        · exact Or.inl h
    · split at h
      · split at h
        · exact Or.inl (List.mem_cons_of_mem _ h)
        · rcases List.mem_cons.1 h with h | h
          · exact Or.inr h
          · exact Or.inl (List.mem_cons_of_mem _ h)
      · rcases List.mem_cons.1 h with h | h
        · exact Or.inl (by simp [h])
        · rcases ih h with h | h
          · exact Or.inl (List.mem_cons_of_mem _ h)
          · exact Or.inr h

/-- A write of one byte keeps the canonical form. -/
theorem Memory.wf_setByte {m : Memory} (h : m.wf = true) (a : Nat) (b : Byte) : (m.setByte a b).wf = true := by
  induction m with
  | nil =>
    unfold Memory.setByte
    split
    · rfl
    · next hb => exact Memory.wf_cons hb (by simp) rfl
  | cons d rest ih =>
    obtain ⟨k, e⟩ := d
    have hrest := Memory.wf_tail h
    have hlt := Memory.wf_head_lt h
    unfold Memory.setByte
    split
    · next hak =>
      split
      · exact h
      · next hb =>
        refine Memory.wf_cons hb ?_ h
        intro c hc
        rcases List.mem_cons.1 hc with rfl | hc
        · exact hak
        · exact Nat.lt_trans hak (hlt c hc)
    · next hak =>
      split
      · next heq =>
        subst heq
        split
        · exact hrest
        · next hb => exact Memory.wf_cons hb hlt hrest
      · next hne =>
        refine Memory.wf_cons (Memory.wf_head_ne h) ?_ (ih hrest)
        intro c hc
        rcases Memory.mem_setByte hc with hc | rfl
        · exact hlt c hc
        · simp only; omega

/-- What an address reads as after a write of one byte, in a canonical memory. -/
theorem Memory.byte_setByte {m : Memory} (h : m.wf = true) (a x : Nat) (b : Byte) :
    (m.setByte a b).byte x = if x = a then b else m.byte x := by
  induction m with
  | nil =>
    unfold Memory.setByte
    by_cases hb : b = unlistedByte
    · simp [hb]
    · by_cases hx : x = a
      · subst hx; simp [hb, Memory.byte]
      · have : a ≠ x := fun e => hx e.symm
        simp [hb, Memory.byte, hx, this]
  | cons d rest ih =>
    obtain ⟨k, e⟩ := d
    have hrest := Memory.wf_tail h
    have hlt := Memory.wf_head_lt h
    unfold Memory.setByte
    by_cases hak : a < k
    · simp only [hak, if_true]
      by_cases hb : b = unlistedByte
      · simp only [hb, if_true]
        by_cases hx : x = a
        · subst hx
          simp only [if_true]
          refine Memory.byte_of_lt ?_
          intro c hc
          rcases List.mem_cons.1 hc with rfl | hc
          · exact hak
          · exact Nat.lt_trans hak (hlt c hc)
        · simp [hx]
      · simp only [hb, if_false]
        by_cases hx : x = a
        · subst hx; simp [Memory.byte]
        · have : a ≠ x := fun e => hx e.symm
          simp [Memory.byte, hx, this]
    · simp only [hak, if_false]
      by_cases heq : a = k
      · subst heq
        simp only [if_true]
        by_cases hb : b = unlistedByte
        · simp only [hb, if_true]
          by_cases hx : x = a
          · subst hx
            simp only [if_true]
            exact Memory.byte_of_lt hlt
          · have : a ≠ x := fun e => hx e.symm
            simp [Memory.byte, hx, this]
        · simp only [hb, if_false]
          by_cases hx : x = a
          · subst hx; simp [Memory.byte]
          · have : a ≠ x := fun e => hx e.symm
            simp [Memory.byte, hx, this]
      · simp only [heq, if_false]
        by_cases hkx : k = x
        · subst hkx
          have : k ≠ a := fun e => heq e.symm
          simp [Memory.byte, this]
        · simp only [Memory.byte, hkx, if_false]
          exact ih hrest

/-! ### Writing several bytes -/

/-- A write of several bytes keeps the canonical form. -/
theorem Memory.wf_setBytes {m : Memory} (h : m.wf = true) (a : Nat) (bs : List Byte) :
    (m.setBytes a bs).wf = true := by
  induction bs generalizing m a with
  | nil => exact h
  | cons b rest ih => exact ih (Memory.wf_setByte h a b) (a + 1)

/-- The cells after a write of several bytes: old cells, or cells in the written range. -/
theorem Memory.mem_setBytes {m : Memory} {a : Nat} {bs : List Byte} {c : Host.Cell} (h : c ∈ m.setBytes a bs) :
    c ∈ m ∨ (a ≤ c.1 ∧ c.1 < a + bs.length) := by
  induction bs generalizing m a with
  | nil => exact Or.inl h
  | cons b rest ih =>
    rcases ih h with h | ⟨h1, h2⟩
    · rcases Memory.mem_setByte h with h | rfl
      · exact Or.inl h
      · exact Or.inr ⟨Nat.le_refl _, by simp⟩
    · exact Or.inr ⟨by omega, by simp only [List.length_cons]; omega⟩

/-- What an address reads as after a write of several bytes, in a canonical memory. -/
theorem Memory.byte_setBytes {m : Memory} (h : m.wf = true) (a x : Nat) (bs : List Byte) :
    (m.setBytes a bs).byte x = if a ≤ x ∧ x < a + bs.length then bs.getD (x - a) 0 else m.byte x := by
  induction bs generalizing m a with
  | nil =>
    simp [Memory.setBytes]
  | cons b rest ih =>
    unfold Memory.setBytes
    rw [ih (Memory.wf_setByte h a b) (a + 1), Memory.byte_setByte h]
    simp only [List.length_cons]
    by_cases hx : x = a
    · subst hx
      have h1 : ¬(x + 1 ≤ x ∧ x < x + 1 + rest.length) := by omega
      have h2 : x ≤ x ∧ x < x + (rest.length + 1) := by omega
      rw [if_neg h1, if_pos h2]
      simp
    · by_cases hin : a + 1 ≤ x ∧ x < a + 1 + rest.length
      · have h2 : a ≤ x ∧ x < a + (rest.length + 1) := by omega
        rw [if_pos hin, if_pos h2]
        have : x - a = (x - (a + 1)) + 1 := by omega
        rw [this, List.getD_cons_succ]
      · have h2 : ¬(a ≤ x ∧ x < a + (rest.length + 1)) := by omega
        rw [if_neg hin, if_neg h2, if_neg hx]

/-- Outside the written range every byte reads as before, in any memory. -/
theorem Memory.byte_setByte_ne (m : Memory) {a x : Nat} (b : Byte) (hx : x ≠ a) : (m.setByte a b).byte x = m.byte x := by
  induction m with
  | nil =>
    unfold Memory.setByte
    split
    · rfl
    · have hax : a ≠ x := fun e => hx e.symm
      simp [Memory.byte, hax]
  | cons d rest ih =>
    obtain ⟨k, e⟩ := d
    have hax : a ≠ x := fun e => hx e.symm
    unfold Memory.setByte
    split
    · split
      · rfl
      · simp [Memory.byte, hax]
    · split
      · next heq =>
        subst heq
        split
        · simp [Memory.byte, hax]
        · simp [Memory.byte, hax]
      · simp only [Memory.byte]
        split
        · rfl
        · exact ih

/-- Outside the written range every byte reads as before, in any memory. -/
theorem Memory.byte_setBytes_outside (m : Memory) {a x : Nat} (bs : List Byte) (hx : x < a ∨ a + bs.length ≤ x) :
    (m.setBytes a bs).byte x = m.byte x := by
  induction bs generalizing m a with
  | nil => rfl
  | cons b rest ih =>
    simp only [List.length_cons] at hx
    unfold Memory.setBytes
    rw [ih _ (by omega), Memory.byte_setByte_ne _ _ (by omega)]

/-! ### Forgetting bytes -/

/-- Forgetting bytes keeps the canonical form. -/
theorem Memory.wf_clear {m : Memory} (h : m.wf = true) (lo hi : Nat) : (m.clear lo hi).wf = true := by
  induction m with
  | nil => rfl
  | cons d rest ih =>
    obtain ⟨k, e⟩ := d
    have hrest := ih (Memory.wf_tail h)
    unfold Memory.clear at hrest ⊢
    rw [List.filter_cons]
    split
    · refine Memory.wf_cons (Memory.wf_head_ne h) ?_ hrest
      intro c hc
      exact Memory.wf_head_lt h c (List.mem_filter.1 hc).1
    · exact hrest

/-- The cells that are left. -/
theorem Memory.mem_clear {m : Memory} {lo hi : Nat} {c : Host.Cell} :
    c ∈ m.clear lo hi ↔ c ∈ m ∧ ¬(lo ≤ c.1 ∧ c.1 < hi) := by
  unfold Memory.clear
  rw [List.mem_filter]
  simp only [Bool.not_eq_true', Bool.and_eq_false_iff, decide_eq_false_iff_not]
  refine and_congr_right fun _ => ?_
  omega

/-- What an address reads as after forgetting a range. -/
theorem Memory.byte_clear (m : Memory) (lo hi x : Nat) :
    (m.clear lo hi).byte x = if lo ≤ x ∧ x < hi then unlistedByte else m.byte x := by
  induction m with
  | nil => simp [Memory.clear]
  | cons d rest ih =>
    obtain ⟨k, e⟩ := d
    unfold Memory.clear at ih ⊢
    rw [List.filter_cons]
    by_cases hk : lo ≤ k ∧ k < hi
    · have h1 : ¬((!(decide (lo ≤ k) && decide (k < hi))) = true) := by simp [hk]
      rw [if_neg h1, ih]
      by_cases hx : lo ≤ x ∧ x < hi
      · rw [if_pos hx, if_pos hx]
      · have hne : k ≠ x := by rintro rfl; exact hx hk
        rw [if_neg hx, if_neg hx]
        simp [Memory.byte, hne]
    · have h1 : (!(decide (lo ≤ k) && decide (k < hi))) = true := by
        simp only [Bool.not_eq_true', Bool.and_eq_false_iff, decide_eq_false_iff_not]
        by_cases h2 : lo ≤ k
        · exact Or.inr fun h3 => hk ⟨h2, h3⟩
        · exact Or.inl h2
      rw [if_pos h1]
      by_cases hkx : k = x
      · subst hkx
        simp [Memory.byte, hk]
      · simp only [Memory.byte, hkx, if_false]
        exact ih

/-- Forgetting the bytes of some regions keeps the canonical form. -/
theorem Memory.wf_clearRegions {m : Memory} (h : m.wf = true) (rs : List Region) : (m.clearRegions rs).wf = true := by
  induction rs generalizing m with
  | nil => exact h
  | cons R rest ih => exact ih (Memory.wf_clear h _ _)

/-- The cells that are left after forgetting the bytes of some regions. -/
theorem Memory.mem_clearRegions {m : Memory} {rs : List Region} {c : Host.Cell} :
    c ∈ m.clearRegions rs ↔ c ∈ m ∧ ∀ R ∈ rs, ¬(R.base.toNat ≤ c.1 ∧ c.1 < R.limit) := by
  induction rs generalizing m with
  | nil => simp [Memory.clearRegions]
  | cons R rest ih =>
    unfold Memory.clearRegions
    rw [ih, Memory.mem_clear]
    simp [and_assoc]

/-- What an address reads as after forgetting the bytes of some regions. -/
theorem Memory.byte_clearRegions (m : Memory) (rs : List Region) (x : Nat) :
    (m.clearRegions rs).byte x =
      if ∃ R ∈ rs, R.base.toNat ≤ x ∧ x < R.limit then unlistedByte else m.byte x := by
  induction rs generalizing m with
  | nil => simp [Memory.clearRegions]
  | cons R rest ih =>
    unfold Memory.clearRegions
    rw [ih, Memory.byte_clear]
    by_cases h1 : R.base.toNat ≤ x ∧ x < R.limit
    · simp [h1]
    · simp [h1]

/-! ### Lists of bytes -/

@[simp] theorem leBytes_length (n : Nat) (v : Word) : (leBytes n v).length = n := by
  induction n generalizing v with
  | zero => rfl
  | succ n ih => simp [leBytes, ih]

/-- Byte k of the low bytes of a value: bits `8k+7` to `8k` (rule R213). -/
theorem leBytes_getD (n : Nat) (v : Word) (k : Nat) (h : k < n) : (leBytes n v).getD k 0 = v.extractLsb' (8 * k) 8 := by
  induction n generalizing v k with
  | zero => omega
  | succ n ih =>
    cases k with
    | zero =>
      simp only [leBytes, List.getD_cons_zero]
      ext i hi
      simp [BitVec.getElem_extractLsb', BitVec.getElem_setWidth]
    | succ k =>
      simp only [leBytes, List.getD_cons_succ]
      rw [ih _ k (by omega)]
      ext i hi
      simp only [BitVec.getElem_extractLsb', BitVec.getLsbD_ushiftRight]
      congr 1
      omega

@[simp] theorem Memory.bytes_length (m : Memory) (a n : Nat) : (m.bytes a n).length = n := by
  induction n generalizing a with
  | zero => rfl
  | succ n ih => simp [Memory.bytes, ih]

/-- Byte k of a read of several bytes. -/
theorem Memory.bytes_getD (m : Memory) (a n k : Nat) (h : k < n) : (m.bytes a n).getD k 0 = m.byte (a + k) := by
  induction n generalizing a k with
  | zero => omega
  | succ n ih =>
    cases k with
    | zero => simp [Memory.bytes]
    | succ k =>
      simp only [Memory.bytes, List.getD_cons_succ]
      rw [ih _ k (by omega)]
      congr 1
      omega

/-- Memories with the same bytes in a range read the same there. -/
theorem Memory.bytes_congr {m m' : Memory} {a n : Nat} (h : ∀ k, k < n → m.byte (a + k) = m'.byte (a + k)) :
    m.bytes a n = m'.bytes a n := by
  induction n generalizing a with
  | zero => rfl
  | succ n ih =>
    simp only [Memory.bytes]
    rw [show m.byte a = m'.byte a from h 0 (by omega)]
    rw [ih fun k hk => by rw [show a + 1 + k = a + (k + 1) by omega]; exact h (k + 1) (by omega)]

/-- Reading back the bytes just written (rules R212, R213). -/
theorem Memory.bytes_setBytes {m : Memory} (h : m.wf = true) (a : Nat) (bs : List Byte) :
    (m.setBytes a bs).bytes a bs.length = bs := by
  refine List.ext_getElem (by simp) ?_
  intro k h1 h2
  have hk : k < bs.length := h2
  have e1 : ((m.setBytes a bs).bytes a bs.length)[k] = ((m.setBytes a bs).bytes a bs.length).getD k 0 := by
    rw [List.getD_eq_getElem _ _ h1]
  rw [e1, Memory.bytes_getD _ _ _ _ hk, Memory.byte_setBytes h]
  have hin : a ≤ a + k ∧ a + k < a + bs.length := by omega
  rw [if_pos hin, Nat.add_sub_cancel_left, List.getD_eq_getElem _ _ hk]

/-- The value of a byte list of n bytes is below 2^(8n). -/
theorem leValue_lt (bs : List Byte) : leValue bs < 2 ^ (8 * bs.length) := by
  induction bs with
  | nil => simp [leValue]
  | cons b rest ih =>
    simp only [leValue, List.length_cons]
    have hb := b.isLt
    have : 2 ^ (8 * (rest.length + 1)) = 256 * 2 ^ (8 * rest.length) := by
      rw [show 8 * (rest.length + 1) = 8 * rest.length + 8 by omega, Nat.pow_add]; omega
    omega

/-- The low bytes of a value, read back, are the value modulo 2^(8n). -/
theorem leValue_leBytes (n : Nat) (v : Word) : leValue (leBytes n v) = v.toNat % 2 ^ (8 * n) := by
  induction n generalizing v with
  | zero => simp [leBytes, leValue, Nat.mod_one]
  | succ n ih =>
    simp only [leBytes, leValue, ih, BitVec.toNat_setWidth, BitVec.toNat_ushiftRight]
    rw [show 8 * (n + 1) = 8 + 8 * n by omega, Nat.pow_add, Nat.mod_mul, Nat.shiftRight_eq_div_pow]

end Sys2Proof.Machine
end

