-- ==== Sys2Proof/Laws/Forms.lean ====
section
/-! SUPPORT. What each shared operation and operand form answers, said once: the next state it gives, or the halt outcome,
by the condition that decides between them. -/

namespace Sys2Proof.Machine

/-! ### Ends of a step -/

theorem advance_eq (len : Nat) (s : State) : advance len s = .next { s with pc := s.pc + BitVec.ofNat 64 len } := rfl

theorem redirect_eq (t : Word) (s : State) : redirect t s = .next { s with pc := t } := rfl

theorem halt_eq (h : Fault) : halt h = .fault h := rfl

theorem unimplemented_eq (i : Instr) : unimplemented i = .fault (.unimplemented i) := rfl

@[simp] theorem andThen_ok {α : Type} (a : α) (k : α → Host.Outcome State Fault Refusal) : andThen (.ok a) k = k a := rfl

@[simp] theorem andThen_error {α : Type} (h : Fault) (k : α → Host.Outcome State Fault Refusal) :
    andThen (.error h) k = .fault h := rfl

/-! ### Register forms -/

theorem writeX_eq (rd : XReg) (v : Word) (len : Nat) (s : State) :
    writeX rd v len s = .next { s.setX rd v with pc := s.pc + BitVec.ofNat 64 len } := by
  simp [writeX, advance_eq]

theorem writeF_eq (rd : FReg) (v : Word) (len : Nat) (s : State) :
    writeF rd v len s = .next { s.setF rd v with pc := s.pc + BitVec.ofNat 64 len } := by
  simp [writeF, advance_eq]

theorem regReg_eq (g : Word → Word → Word) (rd rs1 rs2 : XReg) (len : Nat) (s : State) :
    regReg g rd rs1 rs2 len s
      = .next { s.setX rd (g (s.getX rs1) (s.getX rs2)) with pc := s.pc + BitVec.ofNat 64 len } :=
  writeX_eq _ _ _ _

theorem regImm_eq (g : Word → Word) (rd rs1 : XReg) (len : Nat) (s : State) :
    regImm g rd rs1 len s = .next { s.setX rd (g (s.getX rs1)) with pc := s.pc + BitVec.ofNat 64 len } :=
  writeX_eq _ _ _ _

/-! ### Admission (rule R211) -/

/-- A read is admitted exactly when one region contains the address and holds all the bytes. -/
theorem State.readable_iff {s : State} {a : Word} {n : Nat} :
    s.readable a n = true ↔ ∃ R, regionOf s.regions a = some R ∧ (a - R.base).toNat + n ≤ R.length.toNat := by
  unfold State.readable
  cases hR : regionOf s.regions a with
  | none => simp only [Bool.false_eq_true, reduceCtorEq, false_and, exists_false]
  | some R => simp only [decide_eq_true_eq, Option.some.injEq, exists_eq_left']

/-- A write is admitted exactly when, in addition, that region is writable. -/
theorem State.writable_iff {s : State} {a : Word} {n : Nat} :
    s.writable a n = true ↔
      ∃ R, regionOf s.regions a = some R ∧ (a - R.base).toNat + n ≤ R.length.toNat ∧ R.writable = true := by
  unfold State.writable
  cases hR : regionOf s.regions a with
  | none => simp only [Bool.false_eq_true, reduceCtorEq, false_and, exists_false]
  | some R => simp only [Bool.and_eq_true, decide_eq_true_eq, Option.some.injEq, exists_eq_left']

/-- A write that is admitted is admitted as a read. -/
theorem State.readable_of_writable {s : State} {a : Word} {n : Nat} (h : s.writable a n = true) :
    s.readable a n = true := by
  obtain ⟨R, h1, h2, -⟩ := State.writable_iff.1 h
  exact State.readable_iff.2 ⟨R, h1, h2⟩

/-! ### Access primitives (rules R212 to R214) -/

/-- The little-endian value of `n` bytes of memory. -/
def State.value (s : State) (a : Word) (n : Nat) : Word := BitVec.ofNat 64 (leValue (s.mem.bytes a.toNat n))

theorem memRead_of_readable {s : State} {a : Word} {n : Nat} (h : s.readable a n = true) :
    memRead s a n = .ok (s.value a n) := by simp [memRead, h, State.value]

theorem memRead_miss {s : State} {a : Word} {n : Nat} (h : s.readable a n = false) :
    memRead s a n = .error (.memoryFault .load a) := by simp [memRead, h]

theorem memWrite_of_writable {s : State} {a : Word} {n : Nat} (v : Word) (h : s.writable a n = true) :
    memWrite s a n v = .ok { s with mem := s.mem.setBytes a.toNat (leBytes n v) } := by simp [memWrite, h]

theorem memWrite_miss {s : State} {a : Word} {n : Nat} (v : Word) (h : s.writable a n = false) :
    memWrite s a n v = .error (.memoryFault .store a) := by simp [memWrite, h]

theorem fetchRead_of_readable {s : State} {a : Word} {n : Nat} (h : s.readable a n = true) :
    fetchRead s a n = .ok (s.mem.bytes a.toNat n) := by simp [fetchRead, h]

theorem fetchRead_miss {s : State} {a : Word} {n : Nat} (h : s.readable a n = false) :
    fetchRead s a n = .error (.memoryFault .load a) := by simp [fetchRead, h]

/-! ### Memory forms -/

theorem loadX_of_readable {n : Nat} {ext : Word → Word} {rd rs1 : XReg} {imm : Word} {len : Nat} {s : State}
    (h : s.readable (effAddr s rs1 imm) n = true) :
    loadX n ext rd rs1 imm len s
      = .next { s.setX rd (ext (s.value (effAddr s rs1 imm) n)) with pc := s.pc + BitVec.ofNat 64 len } := by
  simp [loadX, memRead_of_readable h, writeX_eq]

theorem loadX_miss {n : Nat} {ext : Word → Word} {rd rs1 : XReg} {imm : Word} {len : Nat} {s : State}
    (h : s.readable (effAddr s rs1 imm) n = false) :
    loadX n ext rd rs1 imm len s = .fault (.memoryFault .load (effAddr s rs1 imm)) := by
  simp [loadX, memRead_miss h]

theorem loadF_of_readable {n : Nat} {ext : Word → Word} {rd : FReg} {rs1 : XReg} {imm : Word} {len : Nat} {s : State}
    (h : s.readable (effAddr s rs1 imm) n = true) :
    loadF n ext rd rs1 imm len s
      = .next { s.setF rd (ext (s.value (effAddr s rs1 imm) n)) with pc := s.pc + BitVec.ofNat 64 len } := by
  simp [loadF, memRead_of_readable h, writeF_eq]

theorem loadF_miss {n : Nat} {ext : Word → Word} {rd : FReg} {rs1 : XReg} {imm : Word} {len : Nat} {s : State}
    (h : s.readable (effAddr s rs1 imm) n = false) :
    loadF n ext rd rs1 imm len s = .fault (.memoryFault .load (effAddr s rs1 imm)) := by
  simp [loadF, memRead_miss h]

theorem storeWord_of_writable {n : Nat} {v : Word} {rs1 : XReg} {imm : Word} {len : Nat} {s : State}
    (h : s.writable (effAddr s rs1 imm) n = true) :
    storeWord n v rs1 imm len s
      = .next { s with
          mem := s.mem.setBytes (effAddr s rs1 imm).toNat (leBytes n v)
          pc := s.pc + BitVec.ofNat 64 len } := by
  simp [storeWord, memWrite_of_writable v h, advance_eq]

theorem storeWord_miss {n : Nat} {v : Word} {rs1 : XReg} {imm : Word} {len : Nat} {s : State}
    (h : s.writable (effAddr s rs1 imm) n = false) :
    storeWord n v rs1 imm len s = .fault (.memoryFault .store (effAddr s rs1 imm)) := by
  simp [storeWord, memWrite_miss v h]

/-! ### Control transfer -/

theorem branch_eq (cond : Word → Word → Bool) (rs1 rs2 : XReg) (imm : Word) (len : Nat) (s : State) :
    branch cond rs1 rs2 imm len s
      = .next { s with
          pc := if cond (s.getX rs1) (s.getX rs2) then s.pc + imm else s.pc + BitVec.ofNat 64 len } := by
  unfold branch
  split <;> simp [redirect_eq, advance_eq]

theorem jumpOffset_eq (rd : XReg) (imm : Word) (len : Nat) (s : State) :
    jumpOffset rd imm len s = .next { s.setX rd (s.pc + BitVec.ofNat 64 len) with pc := s.pc + imm } := rfl

theorem jumpRegister_eq (rd rs1 : XReg) (imm : Word) (len : Nat) (s : State) :
    jumpRegister rd rs1 imm len s
      = .next { s.setX rd (s.pc + BitVec.ofNat 64 len) with pc := (s.getX rs1 + imm) &&& ~~~1 } := rfl

/-! ### Conversions -/

theorem withRounding_some {i : Instr} {rm : BitVec 3} {mode : RoundMode} (h : roundMode rm = some mode)
    (run : RoundMode → Host.Outcome State Fault Refusal) : withRounding i rm run = run mode := by
  simp [withRounding, h]

theorem withRounding_none {i : Instr} {rm : BitVec 3} (h : roundMode rm = none)
    (run : RoundMode → Host.Outcome State Fault Refusal) :
    withRounding i rm run = .fault (.reservedInstruction (codeWord (encode i)) 4) := by
  simp [withRounding, h, halt_eq]

/-! ### Atomics -/

theorem gated_run {op : AtomicOp} {i : Instr} {ea : Word} {n : Nat} {s : State}
    (h : op ∈ s.cfg.implementedAtomics ∧ ea.toNat % n = 0) (run : Host.Outcome State Fault Refusal) :
    gated op i ea n s run = run := by simp [gated, h]

theorem gated_stop {op : AtomicOp} {i : Instr} {ea : Word} {n : Nat} {s : State}
    (h : ¬(op ∈ s.cfg.implementedAtomics ∧ ea.toNat % n = 0)) (run : Host.Outcome State Fault Refusal) :
    gated op i ea n s run = .fault (.unimplemented i) := by
  unfold gated
  rw [if_neg h]
  rfl

end Sys2Proof.Machine
end

