-- ==== Sys2Proof/Laws/Exec.lean ====
section
/-! SUPPORT. Everything an instruction that goes on can do to the state, said once (`NextOf`), and that every meaning does
one of these (`exec_nextOf`): an invariant of the machine is proved by cases on it, not by cases on the instructions. -/

namespace Sys2Proof.Machine

/-- What the next state can be: registers, pc, memory and reservation written in one of these ways. -/
inductive NextOf (s : State) : State → Prop where
  /-- Only the pc changes. -/
  | pc (p : Word) : NextOf s { s with pc := p }
  /-- An integer register and the pc. -/
  | x (rd : XReg) (v p : Word) : NextOf s { s.setX rd v with pc := p }
  /-- A floating register and the pc. -/
  | f (rd : FReg) (v p : Word) : NextOf s { s.setF rd v with pc := p }
  /-- An admitted store and the pc. -/
  | store (a : Word) (n : Nat) (v p : Word) (h : s.writable a n = true) :
      NextOf s { s with mem := s.mem.setBytes a.toNat (leBytes n v), pc := p }
  /-- An integer register, the reservation and the pc: LR, which sets one only where it exists (rule R113), and SC that
  fails. -/
  | resv (rd : XReg) (v p : Word) (r : Option (Word × ResvWidth)) (h : r = none ∨ s.cfg.hasReservation = true) :
      NextOf s { ({ s with resv := r } : State).setX rd v with pc := p }
  /-- SC that succeeds: an admitted store, an integer register, the reservation and the pc. -/
  | scStore (a : Word) (n : Nat) (w : Word) (rd : XReg) (v p : Word) (h : s.writable a n = true) :
      NextOf s { ({ s with mem := s.mem.setBytes a.toNat (leBytes n w), resv := none } : State).setX rd v with pc := p }
  /-- AMO: an admitted store, an integer register and the pc. -/
  | amo (a : Word) (n : Nat) (w : Word) (rd : XReg) (v p : Word) (h : s.writable a n = true) :
      NextOf s { ({ s with mem := s.mem.setBytes a.toNat (leBytes n w) } : State).setX rd v with pc := p }
  /-- ECALL that returns: the collaborator's effects, x10 and the pc. -/
  | ecall (v : Word) (t : State) (h : syscall s.syscallCall { s with resv := none } = (.ret v, t)) :
      NextOf s { t.setX 10 v with pc := t.pc + BitVec.ofNat 64 4 }

variable {s t : State}

/-! ### The forms -/

theorem writeX_nextOf {rd : XReg} {v : Word} {len : Nat} (h : writeX rd v len s = .next t) : NextOf s t := by
  rw [writeX_eq] at h
  cases h
  exact .x _ _ _

theorem writeF_nextOf {rd : FReg} {v : Word} {len : Nat} (h : writeF rd v len s = .next t) : NextOf s t := by
  rw [writeF_eq] at h
  cases h
  exact .f _ _ _

theorem advance_nextOf {len : Nat} (h : advance len s = .next t) : NextOf s t := by
  rw [advance_eq] at h
  cases h
  exact .pc _

theorem loadX_nextOf {n : Nat} {ext : Word → Word} {rd rs1 : XReg} {imm : Word} {len : Nat}
    (h : loadX n ext rd rs1 imm len s = .next t) : NextOf s t := by
  cases hr : s.readable (effAddr s rs1 imm) n with
  | true => rw [loadX_of_readable hr] at h; cases h; exact .x _ _ _
  | false => rw [loadX_miss hr] at h; cases h

theorem loadF_nextOf {n : Nat} {ext : Word → Word} {rd : FReg} {rs1 : XReg} {imm : Word} {len : Nat}
    (h : loadF n ext rd rs1 imm len s = .next t) : NextOf s t := by
  cases hr : s.readable (effAddr s rs1 imm) n with
  | true => rw [loadF_of_readable hr] at h; cases h; exact .f _ _ _
  | false => rw [loadF_miss hr] at h; cases h

theorem storeWord_nextOf {n : Nat} {v : Word} {rs1 : XReg} {imm : Word} {len : Nat}
    (h : storeWord n v rs1 imm len s = .next t) : NextOf s t := by
  cases hw : s.writable (effAddr s rs1 imm) n with
  | true => rw [storeWord_of_writable hw] at h; cases h; exact .store _ _ _ _ hw
  | false => rw [storeWord_miss hw] at h; cases h

theorem branch_nextOf {cond : Word → Word → Bool} {rs1 rs2 : XReg} {imm : Word} {len : Nat}
    (h : branch cond rs1 rs2 imm len s = .next t) : NextOf s t := by
  rw [branch_eq] at h
  cases h
  exact .pc _

theorem jumpOffset_nextOf {rd : XReg} {imm : Word} {len : Nat} (h : jumpOffset rd imm len s = .next t) :
    NextOf s t := by
  rw [jumpOffset_eq] at h
  cases h
  exact .x _ _ _

theorem jumpRegister_nextOf {rd rs1 : XReg} {imm : Word} {len : Nat} (h : jumpRegister rd rs1 imm len s = .next t) :
    NextOf s t := by
  rw [jumpRegister_eq] at h
  cases h
  exact .x _ _ _

theorem halt_nextOf {r : Fault} (h : halt r = .next t) : NextOf s t := by
  rw [halt_eq] at h
  cases h

theorem unimplemented_nextOf {i : Instr} (h : unimplemented i = .next t) : NextOf s t := halt_nextOf h

theorem withRounding_nextOf {i : Instr} {rm : BitVec 3} {rd : FReg} {v : RoundMode → Word} {len : Nat}
    (h : withRounding i rm (fun mode => writeF rd (v mode) len s) = .next t) : NextOf s t := by
  cases hm : roundMode rm with
  | some mode => rw [withRounding_some hm] at h; exact writeF_nextOf h
  | none => rw [withRounding_none hm] at h; cases h

/-- A gated meaning that goes on is its run. -/
theorem gated_next {op : AtomicOp} {i : Instr} {ea : Word} {n : Nat} {run : Host.Outcome State Fault Refusal}
    (h : gated op i ea n s run = .next t) :
    (op ∈ s.cfg.implementedAtomics ∧ ea.toNat % n = 0) ∧ run = .next t := by
  by_cases hg : op ∈ s.cfg.implementedAtomics ∧ ea.toNat % n = 0
  · rw [gated_run hg] at h; exact ⟨hg, h⟩
  · rw [gated_stop hg] at h; cases h

/-- An implemented LR makes the reservation exist. -/
theorem hasReservation_of_mem {c : Config} {op : AtomicOp} (hop : op = .lrW ∨ op = .lrD)
    (h : op ∈ c.implementedAtomics) : c.hasReservation = true := by
  unfold Config.hasReservation
  rw [Bool.or_eq_true, decide_eq_true_eq, decide_eq_true_eq]
  rcases hop with rfl | rfl
  · exact .inl h
  · exact .inr h

theorem loadReserved_nextOf {op : AtomicOp} {i : Instr} {w : ResvWidth} {ext : Word → Word} {rd rs1 : XReg}
    (hop : op = .lrW ∨ op = .lrD) (h : loadReserved op i w ext rd rs1 s = .next t) : NextOf s t := by
  obtain ⟨⟨hmem, -⟩, h⟩ := gated_next h
  cases hr : s.readable (s.getX rs1) w.bytes with
  | true =>
    rw [memRead_of_readable hr, andThen_ok, writeX_eq] at h
    cases h
    exact .resv _ _ _ _ (.inr (hasReservation_of_mem hop hmem))
  | false => rw [memRead_miss hr, andThen_error] at h; cases h

theorem storeConditional_nextOf {op : AtomicOp} {i : Instr} {w : ResvWidth} {rd rs1 rs2 : XReg}
    (h : storeConditional op i w rd rs1 rs2 s = .next t) : NextOf s t := by
  obtain ⟨-, h⟩ := gated_next h
  split at h
  · cases hw : s.writable (s.getX rs1) w.bytes with
    | true =>
      rw [memWrite_of_writable _ hw, andThen_ok, writeX_eq] at h
      cases h
      exact .scStore _ _ _ _ _ _ hw
    | false => rw [memWrite_miss _ hw, andThen_error] at h; cases h
  · rw [writeX_eq] at h
    cases h
    exact .resv _ _ _ _ (.inl rfl)

theorem amo_nextOf {op : AtomicOp} {i : Instr} {w : ResvWidth} {ext : Word → Word} {g : Word → Word → Word}
    {rd rs1 rs2 : XReg} (h : amo op i w ext g rd rs1 rs2 s = .next t) : NextOf s t := by
  obtain ⟨-, h⟩ := gated_next h
  cases hr : s.readable (s.getX rs1) w.bytes with
  | true =>
    rw [memRead_of_readable hr, andThen_ok] at h
    cases hw : s.writable (s.getX rs1) w.bytes with
    | true =>
      rw [memWrite_of_writable _ hw, andThen_ok, writeX_eq] at h
      cases h
      exact .amo _ _ _ _ _ _ hw
    | false => rw [memWrite_miss _ hw, andThen_error] at h; cases h
  | false => rw [memRead_miss hr, andThen_error] at h; cases h

theorem execEcall_nextOf (h : execEcall s = .next t) : NextOf s t := by
  unfold execEcall at h
  split at h
  · next v u hu =>
    rw [writeX_eq] at h
    cases h
    exact .ecall v u hu
  · rw [halt_eq] at h; cases h

/-! ### Every instruction -/

/-- A next state of any instruction is one of the ways of `NextOf`. -/
theorem exec_nextOf {i : Instr} (h : exec i s = .next t) : NextOf s t := by
  cases i with
  | lui _ _ => exact writeX_nextOf h
  | auipc _ _ => exact writeX_nextOf h
  | jal _ _ => exact jumpOffset_nextOf h
  | jalr _ _ _ => exact jumpRegister_nextOf h
  | beq _ _ _ => exact branch_nextOf h
  | bne _ _ _ => exact branch_nextOf h
  | blt _ _ _ => exact branch_nextOf h
  | bge _ _ _ => exact branch_nextOf h
  | bltu _ _ _ => exact branch_nextOf h
  | bgeu _ _ _ => exact branch_nextOf h
  | lb _ _ _ => exact loadX_nextOf h
  | lh _ _ _ => exact loadX_nextOf h
  | lw _ _ _ => exact loadX_nextOf h
  | ld _ _ _ => exact loadX_nextOf h
  | lbu _ _ _ => exact loadX_nextOf h
  | lhu _ _ _ => exact loadX_nextOf h
  | lwu _ _ _ => exact loadX_nextOf h
  | sb _ _ _ => exact storeWord_nextOf h
  | sh _ _ _ => exact storeWord_nextOf h
  | sw _ _ _ => exact storeWord_nextOf h
  | sd _ _ _ => exact storeWord_nextOf h
  | addi _ _ _ => exact writeX_nextOf h
  | slti _ _ _ => exact writeX_nextOf h
  | sltiu _ _ _ => exact writeX_nextOf h
  | xori _ _ _ => exact writeX_nextOf h
  | ori _ _ _ => exact writeX_nextOf h
  | andi _ _ _ => exact writeX_nextOf h
  | slli _ _ _ => exact writeX_nextOf h
  | srli _ _ _ => exact writeX_nextOf h
  | srai _ _ _ => exact writeX_nextOf h
  | add _ _ _ => exact writeX_nextOf h
  | sub _ _ _ => exact writeX_nextOf h
  | sll _ _ _ => exact writeX_nextOf h
  | slt _ _ _ => exact writeX_nextOf h
  | sltu _ _ _ => exact writeX_nextOf h
  | xor _ _ _ => exact writeX_nextOf h
  | srl _ _ _ => exact writeX_nextOf h
  | sra _ _ _ => exact writeX_nextOf h
  | or _ _ _ => exact writeX_nextOf h
  | and _ _ _ => exact writeX_nextOf h
  | fence _ _ _ _ _ => exact advance_nextOf h
  | ecall => exact execEcall_nextOf h
  | ebreak => exact halt_nextOf h
  | addiw _ _ _ => exact writeX_nextOf h
  | slliw _ _ _ => exact writeX_nextOf h
  | srliw _ _ _ => exact writeX_nextOf h
  | sraiw _ _ _ => exact writeX_nextOf h
  | addw _ _ _ => exact writeX_nextOf h
  | subw _ _ _ => exact writeX_nextOf h
  | sllw _ _ _ => exact writeX_nextOf h
  | srlw _ _ _ => exact writeX_nextOf h
  | sraw _ _ _ => exact writeX_nextOf h
  | mul _ _ _ => exact writeX_nextOf h
  | mulh _ _ _ => exact writeX_nextOf h
  | mulhsu _ _ _ => exact writeX_nextOf h
  | mulhu _ _ _ => exact writeX_nextOf h
  | div _ _ _ => exact writeX_nextOf h
  | divu _ _ _ => exact writeX_nextOf h
  | rem _ _ _ => exact writeX_nextOf h
  | remu _ _ _ => exact writeX_nextOf h
  | mulw _ _ _ => exact writeX_nextOf h
  | divw _ _ _ => exact writeX_nextOf h
  | divuw _ _ _ => exact writeX_nextOf h
  | remw _ _ _ => exact writeX_nextOf h
  | remuw _ _ _ => exact writeX_nextOf h
  | lrW _ _ _ _ => exact loadReserved_nextOf (.inl rfl) h
  | scW _ _ _ _ _ => exact storeConditional_nextOf h
  | amoswapW _ _ _ _ _ => exact amo_nextOf h
  | amoaddW _ _ _ _ _ => exact amo_nextOf h
  | amoxorW _ _ _ _ _ => exact amo_nextOf h
  | amoandW _ _ _ _ _ => exact amo_nextOf h
  | amoorW _ _ _ _ _ => exact amo_nextOf h
  | amominW _ _ _ _ _ => exact amo_nextOf h
  | amomaxW _ _ _ _ _ => exact amo_nextOf h
  | amominuW _ _ _ _ _ => exact amo_nextOf h
  | amomaxuW _ _ _ _ _ => exact amo_nextOf h
  | lrD _ _ _ _ => exact loadReserved_nextOf (.inr rfl) h
  | scD _ _ _ _ _ => exact storeConditional_nextOf h
  | amoswapD _ _ _ _ _ => exact amo_nextOf h
  | amoaddD _ _ _ _ _ => exact amo_nextOf h
  | amoxorD _ _ _ _ _ => exact amo_nextOf h
  | amoandD _ _ _ _ _ => exact amo_nextOf h
  | amoorD _ _ _ _ _ => exact amo_nextOf h
  | amominD _ _ _ _ _ => exact amo_nextOf h
  | amomaxD _ _ _ _ _ => exact amo_nextOf h
  | amominuD _ _ _ _ _ => exact amo_nextOf h
  | amomaxuD _ _ _ _ _ => exact amo_nextOf h
  | flw _ _ _ => exact loadF_nextOf h
  | fsw _ _ _ => exact storeWord_nextOf h
  | fld _ _ _ => exact loadF_nextOf h
  | fsd _ _ _ => exact storeWord_nextOf h
  | fmaddS _ _ _ _ _ => exact unimplemented_nextOf h
  | fmsubS _ _ _ _ _ => exact unimplemented_nextOf h
  | fnmsubS _ _ _ _ _ => exact unimplemented_nextOf h
  | fnmaddS _ _ _ _ _ => exact unimplemented_nextOf h
  | fmaddD _ _ _ _ _ => exact unimplemented_nextOf h
  | fmsubD _ _ _ _ _ => exact unimplemented_nextOf h
  | fnmsubD _ _ _ _ _ => exact unimplemented_nextOf h
  | fnmaddD _ _ _ _ _ => exact unimplemented_nextOf h
  | faddS _ _ _ _ => exact unimplemented_nextOf h
  | fsubS _ _ _ _ => exact unimplemented_nextOf h
  | fmulS _ _ _ _ => exact unimplemented_nextOf h
  | fdivS _ _ _ _ => exact unimplemented_nextOf h
  | fsqrtS _ _ _ => exact unimplemented_nextOf h
  | fsgnjS _ _ _ => exact unimplemented_nextOf h
  | fsgnjnS _ _ _ => exact unimplemented_nextOf h
  | fsgnjxS _ _ _ => exact unimplemented_nextOf h
  | fminS _ _ _ => exact unimplemented_nextOf h
  | fmaxS _ _ _ => exact unimplemented_nextOf h
  | fcvtWS _ _ _ => exact unimplemented_nextOf h
  | fcvtWUS _ _ _ => exact unimplemented_nextOf h
  | fcvtLS _ _ _ => exact unimplemented_nextOf h
  | fcvtLUS _ _ _ => exact unimplemented_nextOf h
  | fcvtSW _ _ _ => exact unimplemented_nextOf h
  | fcvtSWU _ _ _ => exact unimplemented_nextOf h
  | fcvtSL _ _ _ => exact unimplemented_nextOf h
  | fcvtSLU _ _ _ => exact unimplemented_nextOf h
  | feqS _ _ _ => exact unimplemented_nextOf h
  | fltS _ _ _ => exact unimplemented_nextOf h
  | fleS _ _ _ => exact unimplemented_nextOf h
  | fclassS _ _ => exact unimplemented_nextOf h
  | fmvXW _ _ => exact writeX_nextOf h
  | fmvWX _ _ => exact writeF_nextOf h
  | faddD _ _ _ _ => exact unimplemented_nextOf h
  | fsubD _ _ _ _ => exact unimplemented_nextOf h
  | fmulD _ _ _ _ => exact unimplemented_nextOf h
  | fdivD _ _ _ _ => exact unimplemented_nextOf h
  | fsqrtD _ _ _ => exact unimplemented_nextOf h
  | fsgnjD _ _ _ => exact unimplemented_nextOf h
  | fsgnjnD _ _ _ => exact unimplemented_nextOf h
  | fsgnjxD _ _ _ => exact unimplemented_nextOf h
  | fminD _ _ _ => exact unimplemented_nextOf h
  | fmaxD _ _ _ => exact unimplemented_nextOf h
  | fcvtWD _ _ _ => exact unimplemented_nextOf h
  | fcvtWUD _ _ _ => exact unimplemented_nextOf h
  | fcvtLD _ _ _ => exact unimplemented_nextOf h
  | fcvtLUD _ _ _ => exact unimplemented_nextOf h
  | fcvtDW _ _ _ => exact unimplemented_nextOf h
  | fcvtDWU _ _ _ => exact unimplemented_nextOf h
  | fcvtDL _ _ _ => exact unimplemented_nextOf h
  | fcvtDLU _ _ _ => exact unimplemented_nextOf h
  | feqD _ _ _ => exact unimplemented_nextOf h
  | fltD _ _ _ => exact unimplemented_nextOf h
  | fleD _ _ _ => exact unimplemented_nextOf h
  | fclassD _ _ => exact unimplemented_nextOf h
  | fmvXD _ _ => exact writeX_nextOf h
  | fmvDX _ _ => exact writeF_nextOf h
  | fcvtSD rd rs1 rm => unfold exec execFcvtSD at h; exact withRounding_nextOf h
  | fcvtDS rd rs1 rm => unfold exec execFcvtDS at h; exact withRounding_nextOf h
  | cAddi4spn _ _ => exact writeX_nextOf h
  | cFld _ _ _ => exact loadF_nextOf h
  | cLw _ _ _ => exact loadX_nextOf h
  | cLd _ _ _ => exact loadX_nextOf h
  | cFsd _ _ _ => exact storeWord_nextOf h
  | cSw _ _ _ => exact storeWord_nextOf h
  | cSd _ _ _ => exact storeWord_nextOf h
  | cNop => exact writeX_nextOf h
  | cAddi _ _ => exact writeX_nextOf h
  | cAddiw _ _ => exact writeX_nextOf h
  | cLi _ _ => exact writeX_nextOf h
  | cAddi16sp _ => exact writeX_nextOf h
  | cLui _ _ => exact writeX_nextOf h
  | cSrli _ _ => exact writeX_nextOf h
  | cSrai _ _ => exact writeX_nextOf h
  | cAndi _ _ => exact writeX_nextOf h
  | cSub _ _ => exact writeX_nextOf h
  | cXor _ _ => exact writeX_nextOf h
  | cOr _ _ => exact writeX_nextOf h
  | cAnd _ _ => exact writeX_nextOf h
  | cSubw _ _ => exact writeX_nextOf h
  | cAddw _ _ => exact writeX_nextOf h
  | cJ _ => exact jumpOffset_nextOf h
  | cBeqz _ _ => exact branch_nextOf h
  | cBnez _ _ => exact branch_nextOf h
  | cSlli _ _ => exact writeX_nextOf h
  | cFldsp _ _ => exact loadF_nextOf h
  | cLwsp _ _ => exact loadX_nextOf h
  | cLdsp _ _ => exact loadX_nextOf h
  | cJr _ => exact jumpRegister_nextOf h
  | cMv _ _ => exact writeX_nextOf h
  | cEbreak => exact halt_nextOf h
  | cJalr _ => exact jumpRegister_nextOf h
  | cAdd _ _ => exact writeX_nextOf h
  | cFsdsp _ _ => exact storeWord_nextOf h
  | cSwsp _ _ => exact storeWord_nextOf h
  | cSdsp _ _ => exact storeWord_nextOf h

end Sys2Proof.Machine
end

