-- ==== Sys2Proof/Laws/Instructions.lean ====
section
/-! SUPPORT. The next state of every instruction that goes on in every state: one equation per instruction. -/

namespace Sys2Proof.Machine

variable (s : State)

theorem exec_lui (rd : XReg) (imm : Word) :
    exec (.lui rd imm) s
      = .next { s.setX rd imm with pc := s.pc + 4 } :=
  writeX_eq rd imm 4 s

theorem exec_auipc (rd : XReg) (imm : Word) :
    exec (.auipc rd imm) s
      = .next { s.setX rd (s.pc + imm) with pc := s.pc + 4 } :=
  writeX_eq rd (s.pc + imm) 4 s

theorem exec_jal (rd : XReg) (imm : Word) :
    exec (.jal rd imm) s
      = .next { s.setX rd (s.pc + 4) with pc := s.pc + imm } :=
  jumpOffset_eq rd imm 4 s

theorem exec_jalr (rd rs1 : XReg) (imm : Word) :
    exec (.jalr rd rs1 imm) s
      = .next { s.setX rd (s.pc + 4) with pc := (s.getX rs1 + imm) &&& ~~~1 } :=
  jumpRegister_eq rd rs1 imm 4 s

theorem exec_beq (rs1 rs2 : XReg) (imm : Word) :
    exec (.beq rs1 rs2 imm) s
      = .next { s with pc := if condEq (s.getX rs1) (s.getX rs2) then s.pc + imm else s.pc + 4 } :=
  branch_eq condEq rs1 rs2 imm 4 s

theorem exec_bne (rs1 rs2 : XReg) (imm : Word) :
    exec (.bne rs1 rs2 imm) s
      = .next { s with pc := if condNe (s.getX rs1) (s.getX rs2) then s.pc + imm else s.pc + 4 } :=
  branch_eq condNe rs1 rs2 imm 4 s

theorem exec_blt (rs1 rs2 : XReg) (imm : Word) :
    exec (.blt rs1 rs2 imm) s
      = .next { s with pc := if condLt (s.getX rs1) (s.getX rs2) then s.pc + imm else s.pc + 4 } :=
  branch_eq condLt rs1 rs2 imm 4 s

theorem exec_bge (rs1 rs2 : XReg) (imm : Word) :
    exec (.bge rs1 rs2 imm) s
      = .next { s with pc := if condGe (s.getX rs1) (s.getX rs2) then s.pc + imm else s.pc + 4 } :=
  branch_eq condGe rs1 rs2 imm 4 s

theorem exec_bltu (rs1 rs2 : XReg) (imm : Word) :
    exec (.bltu rs1 rs2 imm) s
      = .next { s with pc := if condLtu (s.getX rs1) (s.getX rs2) then s.pc + imm else s.pc + 4 } :=
  branch_eq condLtu rs1 rs2 imm 4 s

theorem exec_bgeu (rs1 rs2 : XReg) (imm : Word) :
    exec (.bgeu rs1 rs2 imm) s
      = .next { s with pc := if condGeu (s.getX rs1) (s.getX rs2) then s.pc + imm else s.pc + 4 } :=
  branch_eq condGeu rs1 rs2 imm 4 s

theorem exec_addi (rd rs1 : XReg) (imm : Word) :
    exec (.addi rd rs1 imm) s
      = .next { s.setX rd (s.getX rs1 + imm) with pc := s.pc + 4 } :=
  regImm_eq (· + imm) rd rs1 4 s

theorem exec_slti (rd rs1 : XReg) (imm : Word) :
    exec (.slti rd rs1 imm) s
      = .next { s.setX rd (aluSlt (s.getX rs1) imm) with pc := s.pc + 4 } :=
  regImm_eq (aluSlt · imm) rd rs1 4 s

theorem exec_sltiu (rd rs1 : XReg) (imm : Word) :
    exec (.sltiu rd rs1 imm) s
      = .next { s.setX rd (aluSltu (s.getX rs1) imm) with pc := s.pc + 4 } :=
  regImm_eq (aluSltu · imm) rd rs1 4 s

theorem exec_xori (rd rs1 : XReg) (imm : Word) :
    exec (.xori rd rs1 imm) s
      = .next { s.setX rd (s.getX rs1 ^^^ imm) with pc := s.pc + 4 } :=
  regImm_eq (· ^^^ imm) rd rs1 4 s

theorem exec_ori (rd rs1 : XReg) (imm : Word) :
    exec (.ori rd rs1 imm) s
      = .next { s.setX rd (s.getX rs1 ||| imm) with pc := s.pc + 4 } :=
  regImm_eq (· ||| imm) rd rs1 4 s

theorem exec_andi (rd rs1 : XReg) (imm : Word) :
    exec (.andi rd rs1 imm) s
      = .next { s.setX rd (s.getX rs1 &&& imm) with pc := s.pc + 4 } :=
  regImm_eq (· &&& imm) rd rs1 4 s

theorem exec_slli (rd rs1 : XReg) (shamt : BitVec 6) :
    exec (.slli rd rs1 shamt) s
      = .next { s.setX rd (s.getX rs1 <<< shamt.toNat) with pc := s.pc + 4 } :=
  regImm_eq (· <<< shamt.toNat) rd rs1 4 s

theorem exec_srli (rd rs1 : XReg) (shamt : BitVec 6) :
    exec (.srli rd rs1 shamt) s
      = .next { s.setX rd (s.getX rs1 >>> shamt.toNat) with pc := s.pc + 4 } :=
  regImm_eq (· >>> shamt.toNat) rd rs1 4 s

theorem exec_srai (rd rs1 : XReg) (shamt : BitVec 6) :
    exec (.srai rd rs1 shamt) s
      = .next { s.setX rd ((s.getX rs1).sshiftRight shamt.toNat) with pc := s.pc + 4 } :=
  regImm_eq (·.sshiftRight shamt.toNat) rd rs1 4 s

theorem exec_add (rd rs1 rs2 : XReg) :
    exec (.add rd rs1 rs2) s
      = .next { s.setX rd (s.getX rs1 + s.getX rs2) with pc := s.pc + 4 } :=
  regReg_eq (· + ·) rd rs1 rs2 4 s

theorem exec_sub (rd rs1 rs2 : XReg) :
    exec (.sub rd rs1 rs2) s
      = .next { s.setX rd (s.getX rs1 - s.getX rs2) with pc := s.pc + 4 } :=
  regReg_eq (· - ·) rd rs1 rs2 4 s

theorem exec_sll (rd rs1 rs2 : XReg) :
    exec (.sll rd rs1 rs2) s
      = .next { s.setX rd (aluSll (s.getX rs1) (s.getX rs2)) with pc := s.pc + 4 } :=
  regReg_eq aluSll rd rs1 rs2 4 s

theorem exec_slt (rd rs1 rs2 : XReg) :
    exec (.slt rd rs1 rs2) s
      = .next { s.setX rd (aluSlt (s.getX rs1) (s.getX rs2)) with pc := s.pc + 4 } :=
  regReg_eq aluSlt rd rs1 rs2 4 s

theorem exec_sltu (rd rs1 rs2 : XReg) :
    exec (.sltu rd rs1 rs2) s
      = .next { s.setX rd (aluSltu (s.getX rs1) (s.getX rs2)) with pc := s.pc + 4 } :=
  regReg_eq aluSltu rd rs1 rs2 4 s

theorem exec_xor (rd rs1 rs2 : XReg) :
    exec (.xor rd rs1 rs2) s
      = .next { s.setX rd (s.getX rs1 ^^^ s.getX rs2) with pc := s.pc + 4 } :=
  regReg_eq (· ^^^ ·) rd rs1 rs2 4 s

theorem exec_srl (rd rs1 rs2 : XReg) :
    exec (.srl rd rs1 rs2) s
      = .next { s.setX rd (aluSrl (s.getX rs1) (s.getX rs2)) with pc := s.pc + 4 } :=
  regReg_eq aluSrl rd rs1 rs2 4 s

theorem exec_sra (rd rs1 rs2 : XReg) :
    exec (.sra rd rs1 rs2) s
      = .next { s.setX rd (aluSra (s.getX rs1) (s.getX rs2)) with pc := s.pc + 4 } :=
  regReg_eq aluSra rd rs1 rs2 4 s

theorem exec_or (rd rs1 rs2 : XReg) :
    exec (.or rd rs1 rs2) s
      = .next { s.setX rd (s.getX rs1 ||| s.getX rs2) with pc := s.pc + 4 } :=
  regReg_eq (· ||| ·) rd rs1 rs2 4 s

theorem exec_and (rd rs1 rs2 : XReg) :
    exec (.and rd rs1 rs2) s
      = .next { s.setX rd (s.getX rs1 &&& s.getX rs2) with pc := s.pc + 4 } :=
  regReg_eq (· &&& ·) rd rs1 rs2 4 s

theorem exec_fence (fm pred succ : BitVec 4) (rs1 rd : XReg) :
    exec (.fence fm pred succ rs1 rd) s
      = .next { s with pc := s.pc + 4 } :=
  advance_eq 4 s

theorem exec_addiw (rd rs1 : XReg) (imm : Word) :
    exec (.addiw rd rs1 imm) s
      = .next { s.setX rd (aluAddw (s.getX rs1) imm) with pc := s.pc + 4 } :=
  regImm_eq (aluAddw · imm) rd rs1 4 s

theorem exec_slliw (rd rs1 : XReg) (shamt : BitVec 5) :
    exec (.slliw rd rs1 shamt) s
      = .next { s.setX rd (aluSllw (s.getX rs1) shamt) with pc := s.pc + 4 } :=
  regImm_eq (aluSllw · shamt) rd rs1 4 s

theorem exec_srliw (rd rs1 : XReg) (shamt : BitVec 5) :
    exec (.srliw rd rs1 shamt) s
      = .next { s.setX rd (aluSrlw (s.getX rs1) shamt) with pc := s.pc + 4 } :=
  regImm_eq (aluSrlw · shamt) rd rs1 4 s

theorem exec_sraiw (rd rs1 : XReg) (shamt : BitVec 5) :
    exec (.sraiw rd rs1 shamt) s
      = .next { s.setX rd (aluSraw (s.getX rs1) shamt) with pc := s.pc + 4 } :=
  regImm_eq (aluSraw · shamt) rd rs1 4 s

theorem exec_addw (rd rs1 rs2 : XReg) :
    exec (.addw rd rs1 rs2) s
      = .next { s.setX rd (aluAddw (s.getX rs1) (s.getX rs2)) with pc := s.pc + 4 } :=
  regReg_eq aluAddw rd rs1 rs2 4 s

theorem exec_subw (rd rs1 rs2 : XReg) :
    exec (.subw rd rs1 rs2) s
      = .next { s.setX rd (aluSubw (s.getX rs1) (s.getX rs2)) with pc := s.pc + 4 } :=
  regReg_eq aluSubw rd rs1 rs2 4 s

theorem exec_sllw (rd rs1 rs2 : XReg) :
    exec (.sllw rd rs1 rs2) s
      = .next { s.setX rd (aluSllw (s.getX rs1) ((s.getX rs2).setWidth 5)) with pc := s.pc + 4 } :=
  regReg_eq (fun a b => aluSllw a (b.setWidth 5)) rd rs1 rs2 4 s

theorem exec_srlw (rd rs1 rs2 : XReg) :
    exec (.srlw rd rs1 rs2) s
      = .next { s.setX rd (aluSrlw (s.getX rs1) ((s.getX rs2).setWidth 5)) with pc := s.pc + 4 } :=
  regReg_eq (fun a b => aluSrlw a (b.setWidth 5)) rd rs1 rs2 4 s

theorem exec_sraw (rd rs1 rs2 : XReg) :
    exec (.sraw rd rs1 rs2) s
      = .next { s.setX rd (aluSraw (s.getX rs1) ((s.getX rs2).setWidth 5)) with pc := s.pc + 4 } :=
  regReg_eq (fun a b => aluSraw a (b.setWidth 5)) rd rs1 rs2 4 s

theorem exec_mul (rd rs1 rs2 : XReg) :
    exec (.mul rd rs1 rs2) s
      = .next { s.setX rd (mulLow (s.getX rs1) (s.getX rs2)) with pc := s.pc + 4 } :=
  regReg_eq mulLow rd rs1 rs2 4 s

theorem exec_mulh (rd rs1 rs2 : XReg) :
    exec (.mulh rd rs1 rs2) s
      = .next { s.setX rd (mulHighSigned (s.getX rs1) (s.getX rs2)) with pc := s.pc + 4 } :=
  regReg_eq mulHighSigned rd rs1 rs2 4 s

theorem exec_mulhsu (rd rs1 rs2 : XReg) :
    exec (.mulhsu rd rs1 rs2) s
      = .next { s.setX rd (mulHighSignedUnsigned (s.getX rs1) (s.getX rs2)) with pc := s.pc + 4 } :=
  regReg_eq mulHighSignedUnsigned rd rs1 rs2 4 s

theorem exec_mulhu (rd rs1 rs2 : XReg) :
    exec (.mulhu rd rs1 rs2) s
      = .next { s.setX rd (mulHighUnsigned (s.getX rs1) (s.getX rs2)) with pc := s.pc + 4 } :=
  regReg_eq mulHighUnsigned rd rs1 rs2 4 s

theorem exec_div (rd rs1 rs2 : XReg) :
    exec (.div rd rs1 rs2) s
      = .next { s.setX rd (divSigned (s.getX rs1) (s.getX rs2)) with pc := s.pc + 4 } :=
  regReg_eq divSigned rd rs1 rs2 4 s

theorem exec_divu (rd rs1 rs2 : XReg) :
    exec (.divu rd rs1 rs2) s
      = .next { s.setX rd (divUnsigned (s.getX rs1) (s.getX rs2)) with pc := s.pc + 4 } :=
  regReg_eq divUnsigned rd rs1 rs2 4 s

theorem exec_rem (rd rs1 rs2 : XReg) :
    exec (.rem rd rs1 rs2) s
      = .next { s.setX rd (remSigned (s.getX rs1) (s.getX rs2)) with pc := s.pc + 4 } :=
  regReg_eq remSigned rd rs1 rs2 4 s

theorem exec_remu (rd rs1 rs2 : XReg) :
    exec (.remu rd rs1 rs2) s
      = .next { s.setX rd (remUnsigned (s.getX rs1) (s.getX rs2)) with pc := s.pc + 4 } :=
  regReg_eq remUnsigned rd rs1 rs2 4 s

theorem exec_mulw (rd rs1 rs2 : XReg) :
    exec (.mulw rd rs1 rs2) s
      = .next { s.setX rd (mulWord (s.getX rs1) (s.getX rs2)) with pc := s.pc + 4 } :=
  regReg_eq mulWord rd rs1 rs2 4 s

theorem exec_divw (rd rs1 rs2 : XReg) :
    exec (.divw rd rs1 rs2) s
      = .next { s.setX rd (divSignedWord (s.getX rs1) (s.getX rs2)) with pc := s.pc + 4 } :=
  regReg_eq divSignedWord rd rs1 rs2 4 s

theorem exec_divuw (rd rs1 rs2 : XReg) :
    exec (.divuw rd rs1 rs2) s
      = .next { s.setX rd (divUnsignedWord (s.getX rs1) (s.getX rs2)) with pc := s.pc + 4 } :=
  regReg_eq divUnsignedWord rd rs1 rs2 4 s

theorem exec_remw (rd rs1 rs2 : XReg) :
    exec (.remw rd rs1 rs2) s
      = .next { s.setX rd (remSignedWord (s.getX rs1) (s.getX rs2)) with pc := s.pc + 4 } :=
  regReg_eq remSignedWord rd rs1 rs2 4 s

theorem exec_remuw (rd rs1 rs2 : XReg) :
    exec (.remuw rd rs1 rs2) s
      = .next { s.setX rd (remUnsignedWord (s.getX rs1) (s.getX rs2)) with pc := s.pc + 4 } :=
  regReg_eq remUnsignedWord rd rs1 rs2 4 s

theorem exec_fmvXW (rd : XReg) (rs1 : FReg) :
    exec (.fmvXW rd rs1) s
      = .next { s.setX rd (sext 32 (s.getF rs1)) with pc := s.pc + 4 } :=
  writeX_eq rd (sext 32 (s.getF rs1)) 4 s

theorem exec_fmvWX (rd : FReg) (rs1 : XReg) :
    exec (.fmvWX rd rs1) s
      = .next { s.setF rd (boxS (low32 (s.getX rs1))) with pc := s.pc + 4 } :=
  writeF_eq rd (boxS (low32 (s.getX rs1))) 4 s

theorem exec_fmvXD (rd : XReg) (rs1 : FReg) :
    exec (.fmvXD rd rs1) s
      = .next { s.setX rd (s.getF rs1) with pc := s.pc + 4 } :=
  writeX_eq rd (s.getF rs1) 4 s

theorem exec_fmvDX (rd : FReg) (rs1 : XReg) :
    exec (.fmvDX rd rs1) s
      = .next { s.setF rd (s.getX rs1) with pc := s.pc + 4 } :=
  writeF_eq rd (s.getX rs1) 4 s

theorem exec_cAddi4spn (rd : XReg) (imm : Word) :
    exec (.cAddi4spn rd imm) s
      = .next { s.setX rd (s.getX 2 + imm) with pc := s.pc + 2 } :=
  regImm_eq (· + imm) rd 2 2 s

theorem exec_cNop :
    exec (.cNop) s
      = .next { s.setX 0 (s.getX 0 + 0) with pc := s.pc + 2 } :=
  regImm_eq (· + 0) 0 0 2 s

theorem exec_cAddi (rd : XReg) (imm : Word) :
    exec (.cAddi rd imm) s
      = .next { s.setX rd (s.getX rd + imm) with pc := s.pc + 2 } :=
  regImm_eq (· + imm) rd rd 2 s

theorem exec_cAddiw (rd : XReg) (imm : Word) :
    exec (.cAddiw rd imm) s
      = .next { s.setX rd (aluAddw (s.getX rd) imm) with pc := s.pc + 2 } :=
  regImm_eq (aluAddw · imm) rd rd 2 s

theorem exec_cLi (rd : XReg) (imm : Word) :
    exec (.cLi rd imm) s
      = .next { s.setX rd (s.getX 0 + imm) with pc := s.pc + 2 } :=
  regImm_eq (· + imm) rd 0 2 s

theorem exec_cAddi16sp (imm : Word) :
    exec (.cAddi16sp imm) s
      = .next { s.setX 2 (s.getX 2 + imm) with pc := s.pc + 2 } :=
  regImm_eq (· + imm) 2 2 2 s

theorem exec_cLui (rd : XReg) (imm : Word) :
    exec (.cLui rd imm) s
      = .next { s.setX rd imm with pc := s.pc + 2 } :=
  writeX_eq rd imm 2 s

theorem exec_cSrli (rd : XReg) (shamt : BitVec 6) :
    exec (.cSrli rd shamt) s
      = .next { s.setX rd (s.getX rd >>> shamt.toNat) with pc := s.pc + 2 } :=
  regImm_eq (· >>> shamt.toNat) rd rd 2 s

theorem exec_cSrai (rd : XReg) (shamt : BitVec 6) :
    exec (.cSrai rd shamt) s
      = .next { s.setX rd ((s.getX rd).sshiftRight shamt.toNat) with pc := s.pc + 2 } :=
  regImm_eq (·.sshiftRight shamt.toNat) rd rd 2 s

theorem exec_cAndi (rd : XReg) (imm : Word) :
    exec (.cAndi rd imm) s
      = .next { s.setX rd (s.getX rd &&& imm) with pc := s.pc + 2 } :=
  regImm_eq (· &&& imm) rd rd 2 s

theorem exec_cSub (rd rs2 : XReg) :
    exec (.cSub rd rs2) s
      = .next { s.setX rd (s.getX rd - s.getX rs2) with pc := s.pc + 2 } :=
  regReg_eq (· - ·) rd rd rs2 2 s

theorem exec_cXor (rd rs2 : XReg) :
    exec (.cXor rd rs2) s
      = .next { s.setX rd (s.getX rd ^^^ s.getX rs2) with pc := s.pc + 2 } :=
  regReg_eq (· ^^^ ·) rd rd rs2 2 s

theorem exec_cOr (rd rs2 : XReg) :
    exec (.cOr rd rs2) s
      = .next { s.setX rd (s.getX rd ||| s.getX rs2) with pc := s.pc + 2 } :=
  regReg_eq (· ||| ·) rd rd rs2 2 s

theorem exec_cAnd (rd rs2 : XReg) :
    exec (.cAnd rd rs2) s
      = .next { s.setX rd (s.getX rd &&& s.getX rs2) with pc := s.pc + 2 } :=
  regReg_eq (· &&& ·) rd rd rs2 2 s

theorem exec_cSubw (rd rs2 : XReg) :
    exec (.cSubw rd rs2) s
      = .next { s.setX rd (aluSubw (s.getX rd) (s.getX rs2)) with pc := s.pc + 2 } :=
  regReg_eq aluSubw rd rd rs2 2 s

theorem exec_cAddw (rd rs2 : XReg) :
    exec (.cAddw rd rs2) s
      = .next { s.setX rd (aluAddw (s.getX rd) (s.getX rs2)) with pc := s.pc + 2 } :=
  regReg_eq aluAddw rd rd rs2 2 s

theorem exec_cJ (imm : Word) :
    exec (.cJ imm) s
      = .next { s.setX 0 (s.pc + 2) with pc := s.pc + imm } :=
  jumpOffset_eq 0 imm 2 s

theorem exec_cBeqz (rs1 : XReg) (imm : Word) :
    exec (.cBeqz rs1 imm) s
      = .next { s with pc := if condEq (s.getX rs1) (s.getX 0) then s.pc + imm else s.pc + 2 } :=
  branch_eq condEq rs1 0 imm 2 s

theorem exec_cBnez (rs1 : XReg) (imm : Word) :
    exec (.cBnez rs1 imm) s
      = .next { s with pc := if condNe (s.getX rs1) (s.getX 0) then s.pc + imm else s.pc + 2 } :=
  branch_eq condNe rs1 0 imm 2 s

theorem exec_cSlli (rd : XReg) (shamt : BitVec 6) :
    exec (.cSlli rd shamt) s
      = .next { s.setX rd (s.getX rd <<< shamt.toNat) with pc := s.pc + 2 } :=
  regImm_eq (· <<< shamt.toNat) rd rd 2 s

theorem exec_cJr (rs1 : XReg) :
    exec (.cJr rs1) s
      = .next { s.setX 0 (s.pc + 2) with pc := (s.getX rs1 + 0) &&& ~~~1 } :=
  jumpRegister_eq 0 rs1 0 2 s

theorem exec_cMv (rd rs2 : XReg) :
    exec (.cMv rd rs2) s
      = .next { s.setX rd (s.getX 0 + s.getX rs2) with pc := s.pc + 2 } :=
  regReg_eq (· + ·) rd 0 rs2 2 s

theorem exec_cJalr (rs1 : XReg) :
    exec (.cJalr rs1) s
      = .next { s.setX 1 (s.pc + 2) with pc := (s.getX rs1 + 0) &&& ~~~1 } :=
  jumpRegister_eq 1 rs1 0 2 s

theorem exec_cAdd (rd rs2 : XReg) :
    exec (.cAdd rd rs2) s
      = .next { s.setX rd (s.getX rd + s.getX rs2) with pc := s.pc + 2 } :=
  regReg_eq (· + ·) rd rd rs2 2 s

end Sys2Proof.Machine
end

