-- ==== Sys2Proof/Laws/PerInstr.lean ====
section
/-! SUPPORT. The statements made once per instruction. `LengthBits` says that the first byte of an instruction's encoding
announces the instruction's length (30_encoding.md rule R302): its two low bits are 11 exactly for the 4-byte forms. -/

namespace Sys2Proof.Laws

/-- The first byte of the instruction's encoding announces its length, and the encoding has that many bytes. -/
def LengthBits.Statement (i : Instr) : Prop :=
  lengthOf ((codeBytes (encode i)).headD 0) = instrLen i ∧ (codeBytes (encode i)).length = instrLen i

/-! ### The two kinds of code -/

theorem extract_head32 (w : BitVec 32) : (w.extractLsb' 0 8).extractLsb' 0 2 = (opcodeOf w).extractLsb' 0 2 := by
  ext i hi
  simp only [opcodeOf, BitVec.getElem_extractLsb', BitVec.getLsbD_extractLsb']
  rw [Nat.zero_add, decide_eq_true (by omega : i < 8), decide_eq_true (by omega : i < 7)]

theorem extract_head16 (w : BitVec 16) : (w.extractLsb' 0 8).extractLsb' 0 2 = w.extractLsb' 0 2 := by
  ext i hi
  simp only [BitVec.getElem_extractLsb', BitVec.getLsbD_extractLsb']
  rw [Nat.zero_add, decide_eq_true (by omega : i < 8), Bool.true_and, Nat.zero_add]

/-- A full word whose opcode ends in 11. -/
theorem lengthBits_full {i : Instr} {w : BitVec 32} (h : encode i = .full w)
    (op : (opcodeOf w).extractLsb' 0 2 = 0b11#2) : LengthBits.Statement i := by
  unfold LengthBits.Statement instrLen
  rw [h]
  refine ⟨?_, rfl⟩
  show lengthOf (w.extractLsb' 0 8) = 4
  rw [lengthOf, extract_head32, op]
  rfl

/-- A halfword whose quadrant is not 11. -/
theorem lengthBits_half {i : Instr} {w : BitVec 16} (h : encode i = .half w) (q : w.extractLsb' 0 2 ≠ 0b11#2) :
    LengthBits.Statement i := by
  unfold LengthBits.Statement instrLen
  rw [h]
  refine ⟨?_, rfl⟩
  show lengthOf (w.extractLsb' 0 8) = 2
  rw [lengthOf, extract_head16, if_neg q]

/-! ### The instructions -/

theorem LengthBits.lui (rd : XReg) (imm : Word) : LengthBits.Statement (.lui rd imm) :=
  lengthBits_full rfl (by rw [opcodeOf_fmtU]; rfl)

theorem LengthBits.auipc (rd : XReg) (imm : Word) : LengthBits.Statement (.auipc rd imm) :=
  lengthBits_full rfl (by rw [opcodeOf_fmtU]; rfl)

theorem LengthBits.jal (rd : XReg) (imm : Word) : LengthBits.Statement (.jal rd imm) :=
  lengthBits_full rfl (by rw [opcodeOf_fmtJ]; rfl)

theorem LengthBits.jalr (rd : XReg) (rs1 : XReg) (imm : Word) : LengthBits.Statement (.jalr rd rs1 imm) :=
  lengthBits_full rfl (by rw [opcodeOf_fmtI]; rfl)

theorem LengthBits.beq (rs1 : XReg) (rs2 : XReg) (imm : Word) : LengthBits.Statement (.beq rs1 rs2 imm) :=
  lengthBits_full rfl (by rw [opcodeOf_fmtB]; rfl)

theorem LengthBits.bne (rs1 : XReg) (rs2 : XReg) (imm : Word) : LengthBits.Statement (.bne rs1 rs2 imm) :=
  lengthBits_full rfl (by rw [opcodeOf_fmtB]; rfl)

theorem LengthBits.blt (rs1 : XReg) (rs2 : XReg) (imm : Word) : LengthBits.Statement (.blt rs1 rs2 imm) :=
  lengthBits_full rfl (by rw [opcodeOf_fmtB]; rfl)

theorem LengthBits.bge (rs1 : XReg) (rs2 : XReg) (imm : Word) : LengthBits.Statement (.bge rs1 rs2 imm) :=
  lengthBits_full rfl (by rw [opcodeOf_fmtB]; rfl)

theorem LengthBits.bltu (rs1 : XReg) (rs2 : XReg) (imm : Word) : LengthBits.Statement (.bltu rs1 rs2 imm) :=
  lengthBits_full rfl (by rw [opcodeOf_fmtB]; rfl)

theorem LengthBits.bgeu (rs1 : XReg) (rs2 : XReg) (imm : Word) : LengthBits.Statement (.bgeu rs1 rs2 imm) :=
  lengthBits_full rfl (by rw [opcodeOf_fmtB]; rfl)

theorem LengthBits.lb (rd : XReg) (rs1 : XReg) (imm : Word) : LengthBits.Statement (.lb rd rs1 imm) :=
  lengthBits_full rfl (by rw [opcodeOf_fmtI]; rfl)

theorem LengthBits.lh (rd : XReg) (rs1 : XReg) (imm : Word) : LengthBits.Statement (.lh rd rs1 imm) :=
  lengthBits_full rfl (by rw [opcodeOf_fmtI]; rfl)

theorem LengthBits.lw (rd : XReg) (rs1 : XReg) (imm : Word) : LengthBits.Statement (.lw rd rs1 imm) :=
  lengthBits_full rfl (by rw [opcodeOf_fmtI]; rfl)

theorem LengthBits.ld (rd : XReg) (rs1 : XReg) (imm : Word) : LengthBits.Statement (.ld rd rs1 imm) :=
  lengthBits_full rfl (by rw [opcodeOf_fmtI]; rfl)

theorem LengthBits.lbu (rd : XReg) (rs1 : XReg) (imm : Word) : LengthBits.Statement (.lbu rd rs1 imm) :=
  lengthBits_full rfl (by rw [opcodeOf_fmtI]; rfl)

theorem LengthBits.lhu (rd : XReg) (rs1 : XReg) (imm : Word) : LengthBits.Statement (.lhu rd rs1 imm) :=
  lengthBits_full rfl (by rw [opcodeOf_fmtI]; rfl)

theorem LengthBits.lwu (rd : XReg) (rs1 : XReg) (imm : Word) : LengthBits.Statement (.lwu rd rs1 imm) :=
  lengthBits_full rfl (by rw [opcodeOf_fmtI]; rfl)

theorem LengthBits.sb (rs1 : XReg) (rs2 : XReg) (imm : Word) : LengthBits.Statement (.sb rs1 rs2 imm) :=
  lengthBits_full rfl (by rw [opcodeOf_fmtS]; rfl)

theorem LengthBits.sh (rs1 : XReg) (rs2 : XReg) (imm : Word) : LengthBits.Statement (.sh rs1 rs2 imm) :=
  lengthBits_full rfl (by rw [opcodeOf_fmtS]; rfl)

theorem LengthBits.sw (rs1 : XReg) (rs2 : XReg) (imm : Word) : LengthBits.Statement (.sw rs1 rs2 imm) :=
  lengthBits_full rfl (by rw [opcodeOf_fmtS]; rfl)

theorem LengthBits.sd (rs1 : XReg) (rs2 : XReg) (imm : Word) : LengthBits.Statement (.sd rs1 rs2 imm) :=
  lengthBits_full rfl (by rw [opcodeOf_fmtS]; rfl)

theorem LengthBits.addi (rd : XReg) (rs1 : XReg) (imm : Word) : LengthBits.Statement (.addi rd rs1 imm) :=
  lengthBits_full rfl (by rw [opcodeOf_fmtI]; rfl)

theorem LengthBits.slti (rd : XReg) (rs1 : XReg) (imm : Word) : LengthBits.Statement (.slti rd rs1 imm) :=
  lengthBits_full rfl (by rw [opcodeOf_fmtI]; rfl)

theorem LengthBits.sltiu (rd : XReg) (rs1 : XReg) (imm : Word) : LengthBits.Statement (.sltiu rd rs1 imm) :=
  lengthBits_full rfl (by rw [opcodeOf_fmtI]; rfl)

theorem LengthBits.xori (rd : XReg) (rs1 : XReg) (imm : Word) : LengthBits.Statement (.xori rd rs1 imm) :=
  lengthBits_full rfl (by rw [opcodeOf_fmtI]; rfl)

theorem LengthBits.ori (rd : XReg) (rs1 : XReg) (imm : Word) : LengthBits.Statement (.ori rd rs1 imm) :=
  lengthBits_full rfl (by rw [opcodeOf_fmtI]; rfl)

theorem LengthBits.andi (rd : XReg) (rs1 : XReg) (imm : Word) : LengthBits.Statement (.andi rd rs1 imm) :=
  lengthBits_full rfl (by rw [opcodeOf_fmtI]; rfl)

theorem LengthBits.slli (rd : XReg) (rs1 : XReg) (shamt : BitVec 6) : LengthBits.Statement (.slli rd rs1 shamt) :=
  lengthBits_full rfl (by rw [opcodeOf_fmtShift64]; rfl)

theorem LengthBits.srli (rd : XReg) (rs1 : XReg) (shamt : BitVec 6) : LengthBits.Statement (.srli rd rs1 shamt) :=
  lengthBits_full rfl (by rw [opcodeOf_fmtShift64]; rfl)

theorem LengthBits.srai (rd : XReg) (rs1 : XReg) (shamt : BitVec 6) : LengthBits.Statement (.srai rd rs1 shamt) :=
  lengthBits_full rfl (by rw [opcodeOf_fmtShift64]; rfl)

theorem LengthBits.add (rd : XReg) (rs1 : XReg) (rs2 : XReg) : LengthBits.Statement (.add rd rs1 rs2) :=
  lengthBits_full rfl (by rw [opcodeOf_fmtR]; rfl)

theorem LengthBits.sub (rd : XReg) (rs1 : XReg) (rs2 : XReg) : LengthBits.Statement (.sub rd rs1 rs2) :=
  lengthBits_full rfl (by rw [opcodeOf_fmtR]; rfl)

theorem LengthBits.sll (rd : XReg) (rs1 : XReg) (rs2 : XReg) : LengthBits.Statement (.sll rd rs1 rs2) :=
  lengthBits_full rfl (by rw [opcodeOf_fmtR]; rfl)

theorem LengthBits.slt (rd : XReg) (rs1 : XReg) (rs2 : XReg) : LengthBits.Statement (.slt rd rs1 rs2) :=
  lengthBits_full rfl (by rw [opcodeOf_fmtR]; rfl)

theorem LengthBits.sltu (rd : XReg) (rs1 : XReg) (rs2 : XReg) : LengthBits.Statement (.sltu rd rs1 rs2) :=
  lengthBits_full rfl (by rw [opcodeOf_fmtR]; rfl)

theorem LengthBits.xor (rd : XReg) (rs1 : XReg) (rs2 : XReg) : LengthBits.Statement (.xor rd rs1 rs2) :=
  lengthBits_full rfl (by rw [opcodeOf_fmtR]; rfl)

theorem LengthBits.srl (rd : XReg) (rs1 : XReg) (rs2 : XReg) : LengthBits.Statement (.srl rd rs1 rs2) :=
  lengthBits_full rfl (by rw [opcodeOf_fmtR]; rfl)

theorem LengthBits.sra (rd : XReg) (rs1 : XReg) (rs2 : XReg) : LengthBits.Statement (.sra rd rs1 rs2) :=
  lengthBits_full rfl (by rw [opcodeOf_fmtR]; rfl)

theorem LengthBits.or (rd : XReg) (rs1 : XReg) (rs2 : XReg) : LengthBits.Statement (.or rd rs1 rs2) :=
  lengthBits_full rfl (by rw [opcodeOf_fmtR]; rfl)

theorem LengthBits.and (rd : XReg) (rs1 : XReg) (rs2 : XReg) : LengthBits.Statement (.and rd rs1 rs2) :=
  lengthBits_full rfl (by rw [opcodeOf_fmtR]; rfl)

theorem LengthBits.fence (fm : BitVec 4) (pred : BitVec 4) (succ : BitVec 4) (rs1 : XReg) (rd : XReg) : LengthBits.Statement (.fence fm pred succ rs1 rd) :=
  lengthBits_full rfl (by rw [opcodeOf_fmtFence]; rfl)

theorem LengthBits.ecall : LengthBits.Statement .ecall := lengthBits_full rfl (by decide)

theorem LengthBits.ebreak : LengthBits.Statement .ebreak := lengthBits_full rfl (by decide)

theorem LengthBits.addiw (rd : XReg) (rs1 : XReg) (imm : Word) : LengthBits.Statement (.addiw rd rs1 imm) :=
  lengthBits_full rfl (by rw [opcodeOf_fmtI]; rfl)

theorem LengthBits.slliw (rd : XReg) (rs1 : XReg) (shamt : BitVec 5) : LengthBits.Statement (.slliw rd rs1 shamt) :=
  lengthBits_full rfl (by rw [opcodeOf_fmtR]; rfl)

theorem LengthBits.srliw (rd : XReg) (rs1 : XReg) (shamt : BitVec 5) : LengthBits.Statement (.srliw rd rs1 shamt) :=
  lengthBits_full rfl (by rw [opcodeOf_fmtR]; rfl)

theorem LengthBits.sraiw (rd : XReg) (rs1 : XReg) (shamt : BitVec 5) : LengthBits.Statement (.sraiw rd rs1 shamt) :=
  lengthBits_full rfl (by rw [opcodeOf_fmtR]; rfl)

theorem LengthBits.addw (rd : XReg) (rs1 : XReg) (rs2 : XReg) : LengthBits.Statement (.addw rd rs1 rs2) :=
  lengthBits_full rfl (by rw [opcodeOf_fmtR]; rfl)

theorem LengthBits.subw (rd : XReg) (rs1 : XReg) (rs2 : XReg) : LengthBits.Statement (.subw rd rs1 rs2) :=
  lengthBits_full rfl (by rw [opcodeOf_fmtR]; rfl)

theorem LengthBits.sllw (rd : XReg) (rs1 : XReg) (rs2 : XReg) : LengthBits.Statement (.sllw rd rs1 rs2) :=
  lengthBits_full rfl (by rw [opcodeOf_fmtR]; rfl)

theorem LengthBits.srlw (rd : XReg) (rs1 : XReg) (rs2 : XReg) : LengthBits.Statement (.srlw rd rs1 rs2) :=
  lengthBits_full rfl (by rw [opcodeOf_fmtR]; rfl)

theorem LengthBits.sraw (rd : XReg) (rs1 : XReg) (rs2 : XReg) : LengthBits.Statement (.sraw rd rs1 rs2) :=
  lengthBits_full rfl (by rw [opcodeOf_fmtR]; rfl)

theorem LengthBits.mul (rd : XReg) (rs1 : XReg) (rs2 : XReg) : LengthBits.Statement (.mul rd rs1 rs2) :=
  lengthBits_full rfl (by rw [opcodeOf_fmtR]; rfl)

theorem LengthBits.mulh (rd : XReg) (rs1 : XReg) (rs2 : XReg) : LengthBits.Statement (.mulh rd rs1 rs2) :=
  lengthBits_full rfl (by rw [opcodeOf_fmtR]; rfl)

theorem LengthBits.mulhsu (rd : XReg) (rs1 : XReg) (rs2 : XReg) : LengthBits.Statement (.mulhsu rd rs1 rs2) :=
  lengthBits_full rfl (by rw [opcodeOf_fmtR]; rfl)

theorem LengthBits.mulhu (rd : XReg) (rs1 : XReg) (rs2 : XReg) : LengthBits.Statement (.mulhu rd rs1 rs2) :=
  lengthBits_full rfl (by rw [opcodeOf_fmtR]; rfl)

theorem LengthBits.div (rd : XReg) (rs1 : XReg) (rs2 : XReg) : LengthBits.Statement (.div rd rs1 rs2) :=
  lengthBits_full rfl (by rw [opcodeOf_fmtR]; rfl)

theorem LengthBits.divu (rd : XReg) (rs1 : XReg) (rs2 : XReg) : LengthBits.Statement (.divu rd rs1 rs2) :=
  lengthBits_full rfl (by rw [opcodeOf_fmtR]; rfl)

theorem LengthBits.rem (rd : XReg) (rs1 : XReg) (rs2 : XReg) : LengthBits.Statement (.rem rd rs1 rs2) :=
  lengthBits_full rfl (by rw [opcodeOf_fmtR]; rfl)

theorem LengthBits.remu (rd : XReg) (rs1 : XReg) (rs2 : XReg) : LengthBits.Statement (.remu rd rs1 rs2) :=
  lengthBits_full rfl (by rw [opcodeOf_fmtR]; rfl)

theorem LengthBits.mulw (rd : XReg) (rs1 : XReg) (rs2 : XReg) : LengthBits.Statement (.mulw rd rs1 rs2) :=
  lengthBits_full rfl (by rw [opcodeOf_fmtR]; rfl)

theorem LengthBits.divw (rd : XReg) (rs1 : XReg) (rs2 : XReg) : LengthBits.Statement (.divw rd rs1 rs2) :=
  lengthBits_full rfl (by rw [opcodeOf_fmtR]; rfl)

theorem LengthBits.divuw (rd : XReg) (rs1 : XReg) (rs2 : XReg) : LengthBits.Statement (.divuw rd rs1 rs2) :=
  lengthBits_full rfl (by rw [opcodeOf_fmtR]; rfl)

theorem LengthBits.remw (rd : XReg) (rs1 : XReg) (rs2 : XReg) : LengthBits.Statement (.remw rd rs1 rs2) :=
  lengthBits_full rfl (by rw [opcodeOf_fmtR]; rfl)

theorem LengthBits.remuw (rd : XReg) (rs1 : XReg) (rs2 : XReg) : LengthBits.Statement (.remuw rd rs1 rs2) :=
  lengthBits_full rfl (by rw [opcodeOf_fmtR]; rfl)

theorem LengthBits.lrW (rd : XReg) (rs1 : XReg) (aq : BitVec 1) (rl : BitVec 1) : LengthBits.Statement (.lrW rd rs1 aq rl) :=
  lengthBits_full rfl (by rw [opcodeOf_fmtAmo]; rfl)

theorem LengthBits.scW (rd : XReg) (rs1 : XReg) (rs2 : XReg) (aq : BitVec 1) (rl : BitVec 1) : LengthBits.Statement (.scW rd rs1 rs2 aq rl) :=
  lengthBits_full rfl (by rw [opcodeOf_fmtAmo]; rfl)

theorem LengthBits.amoswapW (rd : XReg) (rs1 : XReg) (rs2 : XReg) (aq : BitVec 1) (rl : BitVec 1) : LengthBits.Statement (.amoswapW rd rs1 rs2 aq rl) :=
  lengthBits_full rfl (by rw [opcodeOf_fmtAmo]; rfl)

theorem LengthBits.amoaddW (rd : XReg) (rs1 : XReg) (rs2 : XReg) (aq : BitVec 1) (rl : BitVec 1) : LengthBits.Statement (.amoaddW rd rs1 rs2 aq rl) :=
  lengthBits_full rfl (by rw [opcodeOf_fmtAmo]; rfl)

theorem LengthBits.amoxorW (rd : XReg) (rs1 : XReg) (rs2 : XReg) (aq : BitVec 1) (rl : BitVec 1) : LengthBits.Statement (.amoxorW rd rs1 rs2 aq rl) :=
  lengthBits_full rfl (by rw [opcodeOf_fmtAmo]; rfl)

theorem LengthBits.amoandW (rd : XReg) (rs1 : XReg) (rs2 : XReg) (aq : BitVec 1) (rl : BitVec 1) : LengthBits.Statement (.amoandW rd rs1 rs2 aq rl) :=
  lengthBits_full rfl (by rw [opcodeOf_fmtAmo]; rfl)

theorem LengthBits.amoorW (rd : XReg) (rs1 : XReg) (rs2 : XReg) (aq : BitVec 1) (rl : BitVec 1) : LengthBits.Statement (.amoorW rd rs1 rs2 aq rl) :=
  lengthBits_full rfl (by rw [opcodeOf_fmtAmo]; rfl)

theorem LengthBits.amominW (rd : XReg) (rs1 : XReg) (rs2 : XReg) (aq : BitVec 1) (rl : BitVec 1) : LengthBits.Statement (.amominW rd rs1 rs2 aq rl) :=
  lengthBits_full rfl (by rw [opcodeOf_fmtAmo]; rfl)

theorem LengthBits.amomaxW (rd : XReg) (rs1 : XReg) (rs2 : XReg) (aq : BitVec 1) (rl : BitVec 1) : LengthBits.Statement (.amomaxW rd rs1 rs2 aq rl) :=
  lengthBits_full rfl (by rw [opcodeOf_fmtAmo]; rfl)

theorem LengthBits.amominuW (rd : XReg) (rs1 : XReg) (rs2 : XReg) (aq : BitVec 1) (rl : BitVec 1) : LengthBits.Statement (.amominuW rd rs1 rs2 aq rl) :=
  lengthBits_full rfl (by rw [opcodeOf_fmtAmo]; rfl)

theorem LengthBits.amomaxuW (rd : XReg) (rs1 : XReg) (rs2 : XReg) (aq : BitVec 1) (rl : BitVec 1) : LengthBits.Statement (.amomaxuW rd rs1 rs2 aq rl) :=
  lengthBits_full rfl (by rw [opcodeOf_fmtAmo]; rfl)

theorem LengthBits.lrD (rd : XReg) (rs1 : XReg) (aq : BitVec 1) (rl : BitVec 1) : LengthBits.Statement (.lrD rd rs1 aq rl) :=
  lengthBits_full rfl (by rw [opcodeOf_fmtAmo]; rfl)

theorem LengthBits.scD (rd : XReg) (rs1 : XReg) (rs2 : XReg) (aq : BitVec 1) (rl : BitVec 1) : LengthBits.Statement (.scD rd rs1 rs2 aq rl) :=
  lengthBits_full rfl (by rw [opcodeOf_fmtAmo]; rfl)

theorem LengthBits.amoswapD (rd : XReg) (rs1 : XReg) (rs2 : XReg) (aq : BitVec 1) (rl : BitVec 1) : LengthBits.Statement (.amoswapD rd rs1 rs2 aq rl) :=
  lengthBits_full rfl (by rw [opcodeOf_fmtAmo]; rfl)

theorem LengthBits.amoaddD (rd : XReg) (rs1 : XReg) (rs2 : XReg) (aq : BitVec 1) (rl : BitVec 1) : LengthBits.Statement (.amoaddD rd rs1 rs2 aq rl) :=
  lengthBits_full rfl (by rw [opcodeOf_fmtAmo]; rfl)

theorem LengthBits.amoxorD (rd : XReg) (rs1 : XReg) (rs2 : XReg) (aq : BitVec 1) (rl : BitVec 1) : LengthBits.Statement (.amoxorD rd rs1 rs2 aq rl) :=
  lengthBits_full rfl (by rw [opcodeOf_fmtAmo]; rfl)

theorem LengthBits.amoandD (rd : XReg) (rs1 : XReg) (rs2 : XReg) (aq : BitVec 1) (rl : BitVec 1) : LengthBits.Statement (.amoandD rd rs1 rs2 aq rl) :=
  lengthBits_full rfl (by rw [opcodeOf_fmtAmo]; rfl)

theorem LengthBits.amoorD (rd : XReg) (rs1 : XReg) (rs2 : XReg) (aq : BitVec 1) (rl : BitVec 1) : LengthBits.Statement (.amoorD rd rs1 rs2 aq rl) :=
  lengthBits_full rfl (by rw [opcodeOf_fmtAmo]; rfl)

theorem LengthBits.amominD (rd : XReg) (rs1 : XReg) (rs2 : XReg) (aq : BitVec 1) (rl : BitVec 1) : LengthBits.Statement (.amominD rd rs1 rs2 aq rl) :=
  lengthBits_full rfl (by rw [opcodeOf_fmtAmo]; rfl)

theorem LengthBits.amomaxD (rd : XReg) (rs1 : XReg) (rs2 : XReg) (aq : BitVec 1) (rl : BitVec 1) : LengthBits.Statement (.amomaxD rd rs1 rs2 aq rl) :=
  lengthBits_full rfl (by rw [opcodeOf_fmtAmo]; rfl)

theorem LengthBits.amominuD (rd : XReg) (rs1 : XReg) (rs2 : XReg) (aq : BitVec 1) (rl : BitVec 1) : LengthBits.Statement (.amominuD rd rs1 rs2 aq rl) :=
  lengthBits_full rfl (by rw [opcodeOf_fmtAmo]; rfl)

theorem LengthBits.amomaxuD (rd : XReg) (rs1 : XReg) (rs2 : XReg) (aq : BitVec 1) (rl : BitVec 1) : LengthBits.Statement (.amomaxuD rd rs1 rs2 aq rl) :=
  lengthBits_full rfl (by rw [opcodeOf_fmtAmo]; rfl)

theorem LengthBits.flw (rd : FReg) (rs1 : XReg) (imm : Word) : LengthBits.Statement (.flw rd rs1 imm) :=
  lengthBits_full rfl (by rw [opcodeOf_fmtI]; rfl)

theorem LengthBits.fsw (rs1 : XReg) (rs2 : FReg) (imm : Word) : LengthBits.Statement (.fsw rs1 rs2 imm) :=
  lengthBits_full rfl (by rw [opcodeOf_fmtS]; rfl)

theorem LengthBits.fld (rd : FReg) (rs1 : XReg) (imm : Word) : LengthBits.Statement (.fld rd rs1 imm) :=
  lengthBits_full rfl (by rw [opcodeOf_fmtI]; rfl)

theorem LengthBits.fsd (rs1 : XReg) (rs2 : FReg) (imm : Word) : LengthBits.Statement (.fsd rs1 rs2 imm) :=
  lengthBits_full rfl (by rw [opcodeOf_fmtS]; rfl)

theorem LengthBits.fmaddS (rd : FReg) (rs1 : FReg) (rs2 : FReg) (rs3 : FReg) (rm : BitVec 3) : LengthBits.Statement (.fmaddS rd rs1 rs2 rs3 rm) :=
  lengthBits_full rfl (by rw [opcodeOf_fmtR4]; rfl)

theorem LengthBits.fmsubS (rd : FReg) (rs1 : FReg) (rs2 : FReg) (rs3 : FReg) (rm : BitVec 3) : LengthBits.Statement (.fmsubS rd rs1 rs2 rs3 rm) :=
  lengthBits_full rfl (by rw [opcodeOf_fmtR4]; rfl)

theorem LengthBits.fnmsubS (rd : FReg) (rs1 : FReg) (rs2 : FReg) (rs3 : FReg) (rm : BitVec 3) : LengthBits.Statement (.fnmsubS rd rs1 rs2 rs3 rm) :=
  lengthBits_full rfl (by rw [opcodeOf_fmtR4]; rfl)

theorem LengthBits.fnmaddS (rd : FReg) (rs1 : FReg) (rs2 : FReg) (rs3 : FReg) (rm : BitVec 3) : LengthBits.Statement (.fnmaddS rd rs1 rs2 rs3 rm) :=
  lengthBits_full rfl (by rw [opcodeOf_fmtR4]; rfl)

theorem LengthBits.fmaddD (rd : FReg) (rs1 : FReg) (rs2 : FReg) (rs3 : FReg) (rm : BitVec 3) : LengthBits.Statement (.fmaddD rd rs1 rs2 rs3 rm) :=
  lengthBits_full rfl (by rw [opcodeOf_fmtR4]; rfl)

theorem LengthBits.fmsubD (rd : FReg) (rs1 : FReg) (rs2 : FReg) (rs3 : FReg) (rm : BitVec 3) : LengthBits.Statement (.fmsubD rd rs1 rs2 rs3 rm) :=
  lengthBits_full rfl (by rw [opcodeOf_fmtR4]; rfl)

theorem LengthBits.fnmsubD (rd : FReg) (rs1 : FReg) (rs2 : FReg) (rs3 : FReg) (rm : BitVec 3) : LengthBits.Statement (.fnmsubD rd rs1 rs2 rs3 rm) :=
  lengthBits_full rfl (by rw [opcodeOf_fmtR4]; rfl)

theorem LengthBits.fnmaddD (rd : FReg) (rs1 : FReg) (rs2 : FReg) (rs3 : FReg) (rm : BitVec 3) : LengthBits.Statement (.fnmaddD rd rs1 rs2 rs3 rm) :=
  lengthBits_full rfl (by rw [opcodeOf_fmtR4]; rfl)

theorem LengthBits.faddS (rd : FReg) (rs1 : FReg) (rs2 : FReg) (rm : BitVec 3) : LengthBits.Statement (.faddS rd rs1 rs2 rm) :=
  lengthBits_full rfl (by rw [opcodeOf_fmtR]; rfl)

theorem LengthBits.fsubS (rd : FReg) (rs1 : FReg) (rs2 : FReg) (rm : BitVec 3) : LengthBits.Statement (.fsubS rd rs1 rs2 rm) :=
  lengthBits_full rfl (by rw [opcodeOf_fmtR]; rfl)

theorem LengthBits.fmulS (rd : FReg) (rs1 : FReg) (rs2 : FReg) (rm : BitVec 3) : LengthBits.Statement (.fmulS rd rs1 rs2 rm) :=
  lengthBits_full rfl (by rw [opcodeOf_fmtR]; rfl)

theorem LengthBits.fdivS (rd : FReg) (rs1 : FReg) (rs2 : FReg) (rm : BitVec 3) : LengthBits.Statement (.fdivS rd rs1 rs2 rm) :=
  lengthBits_full rfl (by rw [opcodeOf_fmtR]; rfl)

theorem LengthBits.fsqrtS (rd : FReg) (rs1 : FReg) (rm : BitVec 3) : LengthBits.Statement (.fsqrtS rd rs1 rm) :=
  lengthBits_full rfl (by rw [opcodeOf_fmtR]; rfl)

theorem LengthBits.fsgnjS (rd : FReg) (rs1 : FReg) (rs2 : FReg) : LengthBits.Statement (.fsgnjS rd rs1 rs2) :=
  lengthBits_full rfl (by rw [opcodeOf_fmtR]; rfl)

theorem LengthBits.fsgnjnS (rd : FReg) (rs1 : FReg) (rs2 : FReg) : LengthBits.Statement (.fsgnjnS rd rs1 rs2) :=
  lengthBits_full rfl (by rw [opcodeOf_fmtR]; rfl)

theorem LengthBits.fsgnjxS (rd : FReg) (rs1 : FReg) (rs2 : FReg) : LengthBits.Statement (.fsgnjxS rd rs1 rs2) :=
  lengthBits_full rfl (by rw [opcodeOf_fmtR]; rfl)

theorem LengthBits.fminS (rd : FReg) (rs1 : FReg) (rs2 : FReg) : LengthBits.Statement (.fminS rd rs1 rs2) :=
  lengthBits_full rfl (by rw [opcodeOf_fmtR]; rfl)

theorem LengthBits.fmaxS (rd : FReg) (rs1 : FReg) (rs2 : FReg) : LengthBits.Statement (.fmaxS rd rs1 rs2) :=
  lengthBits_full rfl (by rw [opcodeOf_fmtR]; rfl)

theorem LengthBits.fcvtWS (rd : XReg) (rs1 : FReg) (rm : BitVec 3) : LengthBits.Statement (.fcvtWS rd rs1 rm) :=
  lengthBits_full rfl (by rw [opcodeOf_fmtR]; rfl)

theorem LengthBits.fcvtWUS (rd : XReg) (rs1 : FReg) (rm : BitVec 3) : LengthBits.Statement (.fcvtWUS rd rs1 rm) :=
  lengthBits_full rfl (by rw [opcodeOf_fmtR]; rfl)

theorem LengthBits.fcvtLS (rd : XReg) (rs1 : FReg) (rm : BitVec 3) : LengthBits.Statement (.fcvtLS rd rs1 rm) :=
  lengthBits_full rfl (by rw [opcodeOf_fmtR]; rfl)

theorem LengthBits.fcvtLUS (rd : XReg) (rs1 : FReg) (rm : BitVec 3) : LengthBits.Statement (.fcvtLUS rd rs1 rm) :=
  lengthBits_full rfl (by rw [opcodeOf_fmtR]; rfl)

theorem LengthBits.fcvtSW (rd : FReg) (rs1 : XReg) (rm : BitVec 3) : LengthBits.Statement (.fcvtSW rd rs1 rm) :=
  lengthBits_full rfl (by rw [opcodeOf_fmtR]; rfl)

theorem LengthBits.fcvtSWU (rd : FReg) (rs1 : XReg) (rm : BitVec 3) : LengthBits.Statement (.fcvtSWU rd rs1 rm) :=
  lengthBits_full rfl (by rw [opcodeOf_fmtR]; rfl)

theorem LengthBits.fcvtSL (rd : FReg) (rs1 : XReg) (rm : BitVec 3) : LengthBits.Statement (.fcvtSL rd rs1 rm) :=
  lengthBits_full rfl (by rw [opcodeOf_fmtR]; rfl)

theorem LengthBits.fcvtSLU (rd : FReg) (rs1 : XReg) (rm : BitVec 3) : LengthBits.Statement (.fcvtSLU rd rs1 rm) :=
  lengthBits_full rfl (by rw [opcodeOf_fmtR]; rfl)

theorem LengthBits.feqS (rd : XReg) (rs1 : FReg) (rs2 : FReg) : LengthBits.Statement (.feqS rd rs1 rs2) :=
  lengthBits_full rfl (by rw [opcodeOf_fmtR]; rfl)

theorem LengthBits.fltS (rd : XReg) (rs1 : FReg) (rs2 : FReg) : LengthBits.Statement (.fltS rd rs1 rs2) :=
  lengthBits_full rfl (by rw [opcodeOf_fmtR]; rfl)

theorem LengthBits.fleS (rd : XReg) (rs1 : FReg) (rs2 : FReg) : LengthBits.Statement (.fleS rd rs1 rs2) :=
  lengthBits_full rfl (by rw [opcodeOf_fmtR]; rfl)

theorem LengthBits.fclassS (rd : XReg) (rs1 : FReg) : LengthBits.Statement (.fclassS rd rs1) :=
  lengthBits_full rfl (by rw [opcodeOf_fmtR]; rfl)

theorem LengthBits.fmvXW (rd : XReg) (rs1 : FReg) : LengthBits.Statement (.fmvXW rd rs1) :=
  lengthBits_full rfl (by rw [opcodeOf_fmtR]; rfl)

theorem LengthBits.fmvWX (rd : FReg) (rs1 : XReg) : LengthBits.Statement (.fmvWX rd rs1) :=
  lengthBits_full rfl (by rw [opcodeOf_fmtR]; rfl)

theorem LengthBits.faddD (rd : FReg) (rs1 : FReg) (rs2 : FReg) (rm : BitVec 3) : LengthBits.Statement (.faddD rd rs1 rs2 rm) :=
  lengthBits_full rfl (by rw [opcodeOf_fmtR]; rfl)

theorem LengthBits.fsubD (rd : FReg) (rs1 : FReg) (rs2 : FReg) (rm : BitVec 3) : LengthBits.Statement (.fsubD rd rs1 rs2 rm) :=
  lengthBits_full rfl (by rw [opcodeOf_fmtR]; rfl)

theorem LengthBits.fmulD (rd : FReg) (rs1 : FReg) (rs2 : FReg) (rm : BitVec 3) : LengthBits.Statement (.fmulD rd rs1 rs2 rm) :=
  lengthBits_full rfl (by rw [opcodeOf_fmtR]; rfl)

theorem LengthBits.fdivD (rd : FReg) (rs1 : FReg) (rs2 : FReg) (rm : BitVec 3) : LengthBits.Statement (.fdivD rd rs1 rs2 rm) :=
  lengthBits_full rfl (by rw [opcodeOf_fmtR]; rfl)

theorem LengthBits.fsqrtD (rd : FReg) (rs1 : FReg) (rm : BitVec 3) : LengthBits.Statement (.fsqrtD rd rs1 rm) :=
  lengthBits_full rfl (by rw [opcodeOf_fmtR]; rfl)

theorem LengthBits.fsgnjD (rd : FReg) (rs1 : FReg) (rs2 : FReg) : LengthBits.Statement (.fsgnjD rd rs1 rs2) :=
  lengthBits_full rfl (by rw [opcodeOf_fmtR]; rfl)

theorem LengthBits.fsgnjnD (rd : FReg) (rs1 : FReg) (rs2 : FReg) : LengthBits.Statement (.fsgnjnD rd rs1 rs2) :=
  lengthBits_full rfl (by rw [opcodeOf_fmtR]; rfl)

theorem LengthBits.fsgnjxD (rd : FReg) (rs1 : FReg) (rs2 : FReg) : LengthBits.Statement (.fsgnjxD rd rs1 rs2) :=
  lengthBits_full rfl (by rw [opcodeOf_fmtR]; rfl)

theorem LengthBits.fminD (rd : FReg) (rs1 : FReg) (rs2 : FReg) : LengthBits.Statement (.fminD rd rs1 rs2) :=
  lengthBits_full rfl (by rw [opcodeOf_fmtR]; rfl)

theorem LengthBits.fmaxD (rd : FReg) (rs1 : FReg) (rs2 : FReg) : LengthBits.Statement (.fmaxD rd rs1 rs2) :=
  lengthBits_full rfl (by rw [opcodeOf_fmtR]; rfl)

theorem LengthBits.fcvtWD (rd : XReg) (rs1 : FReg) (rm : BitVec 3) : LengthBits.Statement (.fcvtWD rd rs1 rm) :=
  lengthBits_full rfl (by rw [opcodeOf_fmtR]; rfl)

theorem LengthBits.fcvtWUD (rd : XReg) (rs1 : FReg) (rm : BitVec 3) : LengthBits.Statement (.fcvtWUD rd rs1 rm) :=
  lengthBits_full rfl (by rw [opcodeOf_fmtR]; rfl)

theorem LengthBits.fcvtLD (rd : XReg) (rs1 : FReg) (rm : BitVec 3) : LengthBits.Statement (.fcvtLD rd rs1 rm) :=
  lengthBits_full rfl (by rw [opcodeOf_fmtR]; rfl)

theorem LengthBits.fcvtLUD (rd : XReg) (rs1 : FReg) (rm : BitVec 3) : LengthBits.Statement (.fcvtLUD rd rs1 rm) :=
  lengthBits_full rfl (by rw [opcodeOf_fmtR]; rfl)

theorem LengthBits.fcvtDW (rd : FReg) (rs1 : XReg) (rm : BitVec 3) : LengthBits.Statement (.fcvtDW rd rs1 rm) :=
  lengthBits_full rfl (by rw [opcodeOf_fmtR]; rfl)

theorem LengthBits.fcvtDWU (rd : FReg) (rs1 : XReg) (rm : BitVec 3) : LengthBits.Statement (.fcvtDWU rd rs1 rm) :=
  lengthBits_full rfl (by rw [opcodeOf_fmtR]; rfl)

theorem LengthBits.fcvtDL (rd : FReg) (rs1 : XReg) (rm : BitVec 3) : LengthBits.Statement (.fcvtDL rd rs1 rm) :=
  lengthBits_full rfl (by rw [opcodeOf_fmtR]; rfl)

theorem LengthBits.fcvtDLU (rd : FReg) (rs1 : XReg) (rm : BitVec 3) : LengthBits.Statement (.fcvtDLU rd rs1 rm) :=
  lengthBits_full rfl (by rw [opcodeOf_fmtR]; rfl)

theorem LengthBits.feqD (rd : XReg) (rs1 : FReg) (rs2 : FReg) : LengthBits.Statement (.feqD rd rs1 rs2) :=
  lengthBits_full rfl (by rw [opcodeOf_fmtR]; rfl)

theorem LengthBits.fltD (rd : XReg) (rs1 : FReg) (rs2 : FReg) : LengthBits.Statement (.fltD rd rs1 rs2) :=
  lengthBits_full rfl (by rw [opcodeOf_fmtR]; rfl)

theorem LengthBits.fleD (rd : XReg) (rs1 : FReg) (rs2 : FReg) : LengthBits.Statement (.fleD rd rs1 rs2) :=
  lengthBits_full rfl (by rw [opcodeOf_fmtR]; rfl)

theorem LengthBits.fclassD (rd : XReg) (rs1 : FReg) : LengthBits.Statement (.fclassD rd rs1) :=
  lengthBits_full rfl (by rw [opcodeOf_fmtR]; rfl)

theorem LengthBits.fmvXD (rd : XReg) (rs1 : FReg) : LengthBits.Statement (.fmvXD rd rs1) :=
  lengthBits_full rfl (by rw [opcodeOf_fmtR]; rfl)

theorem LengthBits.fmvDX (rd : FReg) (rs1 : XReg) : LengthBits.Statement (.fmvDX rd rs1) :=
  lengthBits_full rfl (by rw [opcodeOf_fmtR]; rfl)

theorem LengthBits.fcvtSD (rd : FReg) (rs1 : FReg) (rm : BitVec 3) : LengthBits.Statement (.fcvtSD rd rs1 rm) :=
  lengthBits_full rfl (by rw [opcodeOf_fmtR]; rfl)

theorem LengthBits.fcvtDS (rd : FReg) (rs1 : FReg) (rm : BitVec 3) : LengthBits.Statement (.fcvtDS rd rs1 rm) :=
  lengthBits_full rfl (by rw [opcodeOf_fmtR]; rfl)

theorem LengthBits.cAddi4spn (rd : XReg) (imm : Word) : LengthBits.Statement (.cAddi4spn rd imm) :=
  lengthBits_half rfl (by rw [quadrant_fmtCIW]; decide)

theorem LengthBits.cFld (rd : FReg) (rs1 : XReg) (imm : Word) : LengthBits.Statement (.cFld rd rs1 imm) :=
  lengthBits_half rfl (by rw [quadrant_fmtCL]; decide)

theorem LengthBits.cLw (rd : XReg) (rs1 : XReg) (imm : Word) : LengthBits.Statement (.cLw rd rs1 imm) :=
  lengthBits_half rfl (by rw [quadrant_fmtCL]; decide)

theorem LengthBits.cLd (rd : XReg) (rs1 : XReg) (imm : Word) : LengthBits.Statement (.cLd rd rs1 imm) :=
  lengthBits_half rfl (by rw [quadrant_fmtCL]; decide)

theorem LengthBits.cFsd (rs1 : XReg) (rs2 : FReg) (imm : Word) : LengthBits.Statement (.cFsd rs1 rs2 imm) :=
  lengthBits_half rfl (by rw [quadrant_fmtCL]; decide)

theorem LengthBits.cSw (rs1 : XReg) (rs2 : XReg) (imm : Word) : LengthBits.Statement (.cSw rs1 rs2 imm) :=
  lengthBits_half rfl (by rw [quadrant_fmtCL]; decide)

theorem LengthBits.cSd (rs1 : XReg) (rs2 : XReg) (imm : Word) : LengthBits.Statement (.cSd rs1 rs2 imm) :=
  lengthBits_half rfl (by rw [quadrant_fmtCL]; decide)

theorem LengthBits.cNop : LengthBits.Statement .cNop := lengthBits_half rfl (by decide)

theorem LengthBits.cAddi (rd : XReg) (imm : Word) : LengthBits.Statement (.cAddi rd imm) :=
  lengthBits_half rfl (by rw [quadrant_fmtCI]; decide)

theorem LengthBits.cAddiw (rd : XReg) (imm : Word) : LengthBits.Statement (.cAddiw rd imm) :=
  lengthBits_half rfl (by rw [quadrant_fmtCI]; decide)

theorem LengthBits.cLi (rd : XReg) (imm : Word) : LengthBits.Statement (.cLi rd imm) :=
  lengthBits_half rfl (by rw [quadrant_fmtCI]; decide)

theorem LengthBits.cAddi16sp (imm : Word) : LengthBits.Statement (.cAddi16sp imm) :=
  lengthBits_half rfl (by rw [quadrant_fmtCI]; decide)

theorem LengthBits.cLui (rd : XReg) (imm : Word) : LengthBits.Statement (.cLui rd imm) :=
  lengthBits_half rfl (by rw [quadrant_fmtCI]; decide)

theorem LengthBits.cSrli (rd : XReg) (shamt : BitVec 6) : LengthBits.Statement (.cSrli rd shamt) :=
  lengthBits_half rfl (by rw [quadrant_fmtCB]; decide)

theorem LengthBits.cSrai (rd : XReg) (shamt : BitVec 6) : LengthBits.Statement (.cSrai rd shamt) :=
  lengthBits_half rfl (by rw [quadrant_fmtCB]; decide)

theorem LengthBits.cAndi (rd : XReg) (imm : Word) : LengthBits.Statement (.cAndi rd imm) :=
  lengthBits_half rfl (by rw [quadrant_fmtCB]; decide)

theorem LengthBits.cSub (rd : XReg) (rs2 : XReg) : LengthBits.Statement (.cSub rd rs2) :=
  lengthBits_half rfl (by rw [quadrant_fmtCA]; decide)

theorem LengthBits.cXor (rd : XReg) (rs2 : XReg) : LengthBits.Statement (.cXor rd rs2) :=
  lengthBits_half rfl (by rw [quadrant_fmtCA]; decide)

theorem LengthBits.cOr (rd : XReg) (rs2 : XReg) : LengthBits.Statement (.cOr rd rs2) :=
  lengthBits_half rfl (by rw [quadrant_fmtCA]; decide)

theorem LengthBits.cAnd (rd : XReg) (rs2 : XReg) : LengthBits.Statement (.cAnd rd rs2) :=
  lengthBits_half rfl (by rw [quadrant_fmtCA]; decide)

theorem LengthBits.cSubw (rd : XReg) (rs2 : XReg) : LengthBits.Statement (.cSubw rd rs2) :=
  lengthBits_half rfl (by rw [quadrant_fmtCA]; decide)

theorem LengthBits.cAddw (rd : XReg) (rs2 : XReg) : LengthBits.Statement (.cAddw rd rs2) :=
  lengthBits_half rfl (by rw [quadrant_fmtCA]; decide)

theorem LengthBits.cJ (imm : Word) : LengthBits.Statement (.cJ imm) :=
  lengthBits_half rfl (by rw [quadrant_fmtCJ]; decide)

theorem LengthBits.cBeqz (rs1 : XReg) (imm : Word) : LengthBits.Statement (.cBeqz rs1 imm) :=
  lengthBits_half rfl (by rw [quadrant_fmtCB]; decide)

theorem LengthBits.cBnez (rs1 : XReg) (imm : Word) : LengthBits.Statement (.cBnez rs1 imm) :=
  lengthBits_half rfl (by rw [quadrant_fmtCB]; decide)

theorem LengthBits.cSlli (rd : XReg) (shamt : BitVec 6) : LengthBits.Statement (.cSlli rd shamt) :=
  lengthBits_half rfl (by rw [quadrant_fmtCI]; decide)

theorem LengthBits.cFldsp (rd : FReg) (imm : Word) : LengthBits.Statement (.cFldsp rd imm) :=
  lengthBits_half rfl (by rw [quadrant_fmtCI]; decide)

theorem LengthBits.cLwsp (rd : XReg) (imm : Word) : LengthBits.Statement (.cLwsp rd imm) :=
  lengthBits_half rfl (by rw [quadrant_fmtCI]; decide)

theorem LengthBits.cLdsp (rd : XReg) (imm : Word) : LengthBits.Statement (.cLdsp rd imm) :=
  lengthBits_half rfl (by rw [quadrant_fmtCI]; decide)

theorem LengthBits.cJr (rs1 : XReg) : LengthBits.Statement (.cJr rs1) :=
  lengthBits_half rfl (by rw [quadrant_fmtCR]; decide)

theorem LengthBits.cMv (rd : XReg) (rs2 : XReg) : LengthBits.Statement (.cMv rd rs2) :=
  lengthBits_half rfl (by rw [quadrant_fmtCR]; decide)

theorem LengthBits.cEbreak : LengthBits.Statement .cEbreak := lengthBits_half rfl (by decide)

theorem LengthBits.cJalr (rs1 : XReg) : LengthBits.Statement (.cJalr rs1) :=
  lengthBits_half rfl (by rw [quadrant_fmtCR]; decide)

theorem LengthBits.cAdd (rd : XReg) (rs2 : XReg) : LengthBits.Statement (.cAdd rd rs2) :=
  lengthBits_half rfl (by rw [quadrant_fmtCR]; decide)

theorem LengthBits.cFsdsp (rs2 : FReg) (imm : Word) : LengthBits.Statement (.cFsdsp rs2 imm) :=
  lengthBits_half rfl (by rw [quadrant_fmtCSS]; decide)

theorem LengthBits.cSwsp (rs2 : XReg) (imm : Word) : LengthBits.Statement (.cSwsp rs2 imm) :=
  lengthBits_half rfl (by rw [quadrant_fmtCSS]; decide)

theorem LengthBits.cSdsp (rs2 : XReg) (imm : Word) : LengthBits.Statement (.cSdsp rs2 imm) :=
  lengthBits_half rfl (by rw [quadrant_fmtCSS]; decide)

end Sys2Proof.Laws
end

