-- ==== Sys2Proof/Laws/Regions.lean ====
section
/-! SUPPORT. The region table: what insertion and removal leave, that a well-formed table gives each address at most one
region, and that every operation over memory and regions keeps memory canonical and the state well formed. -/

namespace Sys2Proof.Machine

/-! ### The table -/

theorem mem_insertRegion {R Q : Region} {rs : List Region} : Q ∈ insertRegion R rs ↔ Q = R ∨ Q ∈ rs := by
  induction rs with
  | nil => simp only [insertRegion, List.mem_singleton, List.not_mem_nil, or_false]
  | cons P rest ih =>
    unfold insertRegion
    split
    · simp only [List.mem_cons]
    · simp only [List.mem_cons, ih]
      tauto

theorem Region.meets_iff {R : Region} {lo n : Nat} :
    R.meets lo n = true ↔ 0 < n ∧ lo < R.limit ∧ R.base.toNat < lo + n := by
  simp only [Region.meets, Bool.and_eq_true, decide_eq_true_eq, and_assoc]

theorem rangeFree_iff {rs : List Region} {lo n : Nat} :
    rangeFree rs lo n = true ↔ ∀ R ∈ rs, ¬(0 < n ∧ lo < R.limit ∧ R.base.toNat < lo + n) := by
  simp only [rangeFree, List.all_eq_true, Bool.not_eq_true', Bool.eq_false_iff, ne_eq, Region.meets_iff]

theorem Region.wf_iff {R : Region} : R.wf = true ↔ 0 < R.length.toNat ∧ R.limit ≤ 2 ^ 64 := by
  simp only [Region.wf, Bool.and_eq_true, decide_eq_true_eq]

theorem tableWf_cons {R : Region} {rs : List Region} :
    tableWf (R :: rs) = true ↔ R.wf = true ∧ (∀ Q ∈ rs, R.limit ≤ Q.base.toNat) ∧ tableWf rs = true := by
  simp only [tableWf, Bool.and_eq_true, List.all_eq_true, decide_eq_true_eq, and_assoc]

theorem tableWf_mem {rs : List Region} (h : tableWf rs = true) : ∀ R ∈ rs, R.wf = true := by
  induction rs with
  | nil => intro R hR; cases hR
  | cons P rest ih =>
    obtain ⟨h1, -, h3⟩ := tableWf_cons.1 h
    intro R hR
    rcases List.mem_cons.1 hR with rfl | hR
    · exact h1
    · exact ih h3 R hR

/-- In a region that does not wrap, containment is a range of unbounded integers. -/
theorem Region.contains_iff {R : Region} (h : R.wf = true) {a : Word} :
    R.contains a = true ↔ R.base.toNat ≤ a.toNat ∧ a.toNat < R.limit := by
  have hw := Region.wf_iff.1 h
  unfold Region.limit at *
  simp only [Region.contains, Bool.and_eq_true, decide_eq_true_eq, BitVec.le_def, BitVec.lt_def]
  constructor
  · rintro ⟨h1, h2⟩
    rw [BitVec.toNat_sub_of_le (BitVec.le_def.2 h1)] at h2
    omega
  · rintro ⟨h1, h2⟩
    refine ⟨h1, ?_⟩
    rw [BitVec.toNat_sub_of_le (BitVec.le_def.2 h1)]
    omega

/-- Two regions of a well-formed table that share an address are one. -/
theorem tableWf_unique {rs : List Region} (h : tableWf rs = true) {P Q : Region} (hP : P ∈ rs) (hQ : Q ∈ rs) {a : Nat}
    (h1 : P.base.toNat ≤ a ∧ a < P.limit) (h2 : Q.base.toNat ≤ a ∧ a < Q.limit) : P = Q := by
  induction rs with
  | nil => cases hP
  | cons R rest ih =>
    obtain ⟨-, hR, hrest⟩ := tableWf_cons.1 h
    rcases List.mem_cons.1 hP with hP | hP <;> rcases List.mem_cons.1 hQ with hQ | hQ
    · rw [hP, hQ]
    · have := hR Q hQ; subst hP; omega
    · have := hR P hP; subst hQ; omega
    · exact ih hrest hP hQ

/-- The scan finds a region that is in the table and contains the address. -/
theorem regionOf_some {rs : List Region} {a : Word} {R : Region} (h : regionOf rs a = some R) :
    R ∈ rs ∧ R.contains a = true :=
  ⟨List.mem_of_find?_eq_some h, by
    unfold regionOf at h
    have := List.find?_some h
    exact this⟩

theorem tableWf_insert {R : Region} {rs : List Region} (h : tableWf rs = true) (hR : R.wf = true)
    (hfree : ∀ Q ∈ rs, Q.limit ≤ R.base.toNat ∨ R.limit ≤ Q.base.toNat) : tableWf (insertRegion R rs) = true := by
  induction rs with
  | nil => exact tableWf_cons.2 ⟨hR, (by intro Q hQ; cases hQ), rfl⟩
  | cons P rest ih =>
    obtain ⟨hP, hlt, hrest⟩ := tableWf_cons.1 h
    have hpos := (Region.wf_iff.1 hP).1
    have hpos' := (Region.wf_iff.1 hR).1
    have hP0 := hfree P List.mem_cons_self
    unfold insertRegion
    split
    · rename_i hbase
      refine tableWf_cons.2 ⟨hR, ?_, h⟩
      intro Q hQ
      rcases List.mem_cons.1 hQ with rfl | hQ
      · unfold Region.limit at *; omega
      · have := hlt Q hQ; unfold Region.limit at *; omega
    · rename_i hbase
      refine tableWf_cons.2 ⟨hP, ?_, ih hrest fun Q hQ => hfree Q (List.mem_cons_of_mem _ hQ)⟩
      intro Q hQ
      rcases mem_insertRegion.1 hQ with rfl | hQ
      · unfold Region.limit at *; omega
      · exact hlt Q hQ

theorem tableWf_filter {rs : List Region} (h : tableWf rs = true) (p : Region → Bool) : tableWf (rs.filter p) = true := by
  induction rs with
  | nil => rfl
  | cons P rest ih =>
    obtain ⟨hP, hlt, hrest⟩ := tableWf_cons.1 h
    rw [List.filter_cons]
    split
    · exact tableWf_cons.2 ⟨hP, fun Q hQ => hlt Q (List.mem_filter.1 hQ).1, ih hrest⟩
    · exact ih hrest

/-! ### Well-formed states -/

theorem mapped_iff {rs : List Region} {a : Nat} :
    mapped rs a = true ↔ ∃ R ∈ rs, R.base.toNat ≤ a ∧ a < R.limit := by
  simp only [mapped, List.any_eq_true, Bool.and_eq_true, decide_eq_true_eq]

theorem State.wf_iff {s : State} :
    s.wf = true ↔ tableWf s.regions = true ∧ s.mem.wf = true ∧ ∀ c ∈ s.mem, mapped s.regions c.1 = true := by
  simp only [State.wf, Bool.and_eq_true, List.all_eq_true, and_assoc]

/-- Well-formedness reads the region table and memory alone. -/
theorem State.wf_congr {s t : State} (hr : t.regions = s.regions) (hm : t.mem = s.mem) : t.wf = s.wf := by
  unfold State.wf
  rw [hr, hm]

theorem State.resvWf_iff {s : State} : s.resvWf = true ↔ (s.cfg.hasReservation = false → s.resv = none) := by
  unfold State.resvWf
  cases s.cfg.hasReservation <;> simp

/-- Whether the reservation may be held reads the parameters and the reservation alone. -/
theorem State.resvWf_congr {s t : State} (hc : t.cfg = s.cfg) (hr : t.resv = s.resv) : t.resvWf = s.resvWf := by
  unfold State.resvWf
  rw [hc, hr]

/-- A state without a reservation is well formed in this respect, whatever is implemented. -/
theorem State.resvWf_of_none {s : State} (h : s.resv = none) : s.resvWf = true :=
  State.resvWf_iff.2 fun _ => h

/-- Where an LR is implemented any reservation may be held. -/
theorem State.resvWf_of_hasReservation {s : State} (h : s.cfg.hasReservation = true) : s.resvWf = true := by
  unfold State.resvWf
  rw [h]
  rfl

/-- The memory the model starts from is canonical. -/
theorem State.reset_mem_wf : State.reset.mem.wf = true := rfl

/-- An admitted write keeps the state well formed. -/
theorem State.wf_store {s : State} (h : s.wf = true) {a : Word} {n : Nat} (v : Word) (hw : s.writable a n = true) :
    ({ s with mem := s.mem.setBytes a.toNat (leBytes n v) } : State).wf = true := by
  obtain ⟨h1, h2, h3⟩ := State.wf_iff.1 h
  refine State.wf_iff.2 ⟨h1, Memory.wf_setBytes h2 _ _, ?_⟩
  intro c hc
  rcases Memory.mem_setBytes hc with hc | hc
  · exact h3 c hc
  · obtain ⟨R, hR, hlen, -⟩ := State.writable_iff.1 hw
    obtain ⟨hmem, hcon⟩ := regionOf_some hR
    have hwf := tableWf_mem h1 R hmem
    have hrange := (Region.contains_iff hwf).1 hcon
    rw [leBytes_length] at hc
    rw [BitVec.toNat_sub_of_le (BitVec.le_def.2 hrange.1)] at hlen
    refine mapped_iff.2 ⟨R, hmem, ?_⟩
    unfold Region.limit at *
    omega

/-! ### The region operations -/

theorem roundUp_pos {c : Config} {n : Nat} (h : 0 < n) : 0 < roundUp c n := by
  have hp : 0 < pageSize c := by unfold pageSize guestPageSize; omega
  unfold roundUp
  exact Nat.mul_pos (Nat.div_pos (by omega) hp) hp

theorem poke_wf {s : State} (h : s.wf = true) (a : Word) (b : Byte) : (poke a b s).wf = true := by
  unfold poke State.translate
  cases hR : regionOf s.regions a with
  | none => exact h
  | some R =>
    obtain ⟨h1, h2, h3⟩ := State.wf_iff.1 h
    obtain ⟨hmem, hcon⟩ := regionOf_some hR
    refine State.wf_iff.2 ⟨h1, Memory.wf_setByte h2 _ _, ?_⟩
    intro c hc
    rcases Memory.mem_setByte hc with hc | rfl
    · exact h3 c hc
    · exact mapped_iff.2 ⟨R, hmem, (Region.contains_iff (tableWf_mem h1 R hmem)).1 hcon⟩

/-- A new region over cleared memory keeps the state well formed. -/
theorem insert_clear_wf {s : State} (h : s.wf = true) {b : Word} {n : Nat} {w o : Bool} (hn : 0 < n) (hlt : n < 2 ^ 64)
    (hfree : rangeFree s.regions b.toNat n = true) (htop : b.toNat + n ≤ 2 ^ 64) (bs : List Byte) (hbs : bs.length ≤ n) :
    ({ s with
        regions := insertRegion { base := b, length := BitVec.ofNat 64 n, writable := w, owned := o } s.regions
        mem := (s.mem.clear b.toNat (b.toNat + n)).setBytes b.toNat bs } : State).wf = true := by
  obtain ⟨h1, h2, h3⟩ := State.wf_iff.1 h
  have hlen : (BitVec.ofNat 64 n).toNat = n := by rw [BitVec.toNat_ofNat, Nat.mod_eq_of_lt hlt]
  have hlim : (Region.mk b (BitVec.ofNat 64 n) w o).limit = b.toNat + n := by unfold Region.limit; rw [hlen]
  refine State.wf_iff.2 ⟨tableWf_insert h1 (Region.wf_iff.2 ⟨?_, ?_⟩) ?_, Memory.wf_setBytes (Memory.wf_clear h2 _ _) _ _, ?_⟩
  · rw [hlen]; exact hn
  · rw [hlim]; exact htop
  · intro Q hQ
    have := rangeFree_iff.1 hfree Q hQ
    rw [hlim]
    show Q.limit ≤ b.toNat ∨ b.toNat + n ≤ Q.base.toNat
    omega
  · intro c hc
    rcases Memory.mem_setBytes hc with hc | hc
    · obtain ⟨R, hR, hr⟩ := mapped_iff.1 (h3 c (Memory.mem_clear.1 hc).1)
      exact mapped_iff.2 ⟨R, mem_insertRegion.2 (Or.inr hR), hr⟩
    · refine mapped_iff.2 ⟨_, mem_insertRegion.2 (Or.inl rfl), ?_⟩
      rw [hlim]
      show b.toNat ≤ c.1 ∧ c.1 < b.toNat + n
      omega

theorem allocate_wf {s t : State} (h : s.wf = true) {n b : Word} {stack : Bool} {draw : Option Word}
    (ha : allocate n stack draw s = .ok (b, t)) : t.wf = true := by
  simp only [allocate] at ha
  split at ha
  · cases ha
  · rename_i hn
    split at ha
    · cases ha
    · rename_i hlt
      split at ha
      · cases ha
      · split at ha
        · rename_i hlegal
          simp only [legalBase, Bool.and_eq_true, decide_eq_true_eq] at hlegal
          cases ha
          refine insert_clear_wf (w := true) (o := true) h (roundUp_pos ?_) (by omega) hlegal.1.2 hlegal.2 [] (Nat.zero_le _)
          rcases Nat.eq_zero_or_pos n.toNat with h0 | h0
          · exact absurd (BitVec.eq_of_toNat_eq h0) hn
          · exact h0
        · cases ha

theorem registerHostMemory_wf {s t : State} (h : s.wf = true) {b c : Word} {w : Bool} {bs : List Byte}
    (hr : registerHostMemory b w bs s = .ok (c, t)) : t.wf = true := by
  unfold registerHostMemory at hr
  split at hr
  · cases hr
  · split at hr
    · rename_i hn hfree
      cases hr
      exact insert_clear_wf h (by omega) (by omega) hfree.1 hfree.2 bs (Nat.le_refl _)
    · cases hr

theorem deallocate_wf {s : State} (h : s.wf = true) (a n : Word) : (deallocate a n s).wf = true := by
  obtain ⟨h1, h2, h3⟩ := State.wf_iff.1 h
  refine State.wf_iff.2 ⟨tableWf_filter h1 _, Memory.wf_clearRegions h2 _, ?_⟩
  intro c hc
  obtain ⟨hc, hout⟩ := Memory.mem_clearRegions.1 hc
  obtain ⟨R, hR, hr⟩ := mapped_iff.1 (h3 c hc)
  refine mapped_iff.2 ⟨R, List.mem_filter.2 ⟨hR, ?_⟩, hr⟩
  cases hm : R.meets a.toNat n.toNat with
  | false => rfl
  | true => exact absurd hr (hout R (List.mem_filter.2 ⟨hR, hm⟩))

theorem applyGuestOp_wf {s : State} (h : s.wf = true) (op : GuestOp) : (applyGuestOp op s).wf = true := by
  cases op with
  | poke a b => exact poke_wf h a b
  | allocate n stack draw =>
    show (stateAfter (allocate n stack draw s) s).wf = true
    cases ha : allocate n stack draw s with
    | ok r => exact allocate_wf h ha
    | error e => exact h
  | deallocate a n => exact deallocate_wf h a n
  | register b w bs =>
    show (stateAfter (registerHostMemory b w bs s) s).wf = true
    cases hr : registerHostMemory b w bs s with
    | ok r => exact registerHostMemory_wf h hr
    | error e => exact h

/-- Whatever the collaborator does, the state stays well formed. -/
theorem applyGuestOps_wf {s : State} (h : s.wf = true) (ops : List GuestOp) : (applyGuestOps ops s).wf = true := by
  induction ops generalizing s with
  | nil => exact h
  | cons op rest ih => exact ih (applyGuestOp_wf h op)

end Sys2Proof.Machine
end

