-- ==== Sys2Proof/Laws/Values.lean ====
section
/-! SUPPORT. The value of 1, 2, 4 and 8 bytes of memory as a concatenation of bytes, the extensions of such values, what a
fetch answers, and what a syscall leaves alone. -/

namespace Sys2Proof.Machine

/-! ### Values of bytes (rules R212, R220) -/

theorem toNat_append_eq {m n : Nat} (x : BitVec m) (y : BitVec n) : (x ++ y).toNat = x.toNat * 2 ^ n + y.toNat := by
  rw [BitVec.toNat_append, Nat.shiftLeft_eq, Nat.mul_comm, ← Nat.two_pow_add_eq_or_of_lt y.isLt]

theorem State.value_one (s : State) (a : Word) : s.value a 1 = (s.mem.byte a.toNat).setWidth 64 := by
  apply BitVec.eq_of_toNat_eq
  simp [State.value, Memory.bytes, leValue]

theorem State.value_two (s : State) (a : Word) :
    s.value a 2 = (s.mem.byte (a.toNat + 1) ++ s.mem.byte a.toNat).setWidth 64 := by
  apply BitVec.eq_of_toNat_eq
  simp only [State.value, Memory.bytes, leValue, BitVec.toNat_ofNat, BitVec.toNat_setWidth, toNat_append_eq]
  simp
  omega

theorem State.value_four (s : State) (a : Word) :
    s.value a 4 = (s.mem.byte (a.toNat + 3) ++ s.mem.byte (a.toNat + 2) ++ s.mem.byte (a.toNat + 1) ++
      s.mem.byte a.toNat).setWidth 64 := by
  apply BitVec.eq_of_toNat_eq
  simp only [State.value, Memory.bytes, leValue, BitVec.toNat_ofNat, BitVec.toNat_setWidth, toNat_append_eq, Nat.add_assoc]
  simp
  omega

theorem State.value_eight (s : State) (a : Word) :
    s.value a 8 = s.mem.byte (a.toNat + 7) ++ s.mem.byte (a.toNat + 6) ++ s.mem.byte (a.toNat + 5) ++
      s.mem.byte (a.toNat + 4) ++ s.mem.byte (a.toNat + 3) ++ s.mem.byte (a.toNat + 2) ++ s.mem.byte (a.toNat + 1) ++
      s.mem.byte a.toNat := by
  apply BitVec.eq_of_toNat_eq
  have h (k : Nat) := (s.mem.byte (a.toNat + k)).isLt
  have h0 := (s.mem.byte a.toNat).isLt
  have h1 := h 1
  have h2 := h 2
  have h3 := h 3
  have h4 := h 4
  have h5 := h 5
  have h6 := h 6
  have h7 := h 7
  simp only [State.value, Memory.bytes, leValue, BitVec.toNat_ofNat, toNat_append_eq, Nat.add_assoc]
  simp at *
  omega

/-- The low bits of a value of at most 64 bits placed in a register. -/
theorem setWidth_setWidth_of_le {n : Nat} (h : n ≤ 64) (v : BitVec n) : (v.setWidth 64).setWidth n = v := by
  apply BitVec.eq_of_toNat_eq
  rw [BitVec.toNat_setWidth, BitVec.toNat_setWidth, Nat.mod_mod_of_dvd _ (Nat.pow_dvd_pow 2 h), Nat.mod_eq_of_lt v.isLt]

theorem sext_setWidth {n : Nat} (h : n ≤ 64) (v : BitVec n) : sext n (v.setWidth 64) = v.signExtend 64 := by
  rw [sext, setWidth_setWidth_of_le h]

theorem zext_setWidth {n : Nat} (h : n ≤ 64) (v : BitVec n) : zext n (v.setWidth 64) = v.setWidth 64 := by
  rw [zext, setWidth_setWidth_of_le h]

theorem low32_setWidth (v : BitVec 32) : low32 (v.setWidth 64) = v := setWidth_setWidth_of_le (by decide) v

/-! ### Fetching (rules R302, R501) -/

theorem lengthOf_eq (b : Byte) : lengthOf b = if b.toNat % 4 = 3 then 4 else 2 := by
  revert b
  decide +kernel

/-- When the pc's region holds the whole instruction, the fetch gives its bytes. -/
theorem fetch_of_readable {s : State} (h : s.readable s.pc (lengthOf (s.mem.byte s.pc.toNat)) = true) :
    fetch s = .ok (s.mem.bytes s.pc.toNat (lengthOf (s.mem.byte s.pc.toNat))) := by
  have h1 : s.readable s.pc 1 = true := by
    obtain ⟨R, hR, hlen⟩ := State.readable_iff.1 h
    refine State.readable_iff.2 ⟨R, hR, ?_⟩
    rw [lengthOf_eq] at hlen
    split at hlen <;> omega
  unfold fetch
  rw [fetchRead_of_readable h1]
  exact fetchRead_of_readable h

/-- When it does not, the fetch misses at the pc. -/
theorem fetch_miss {s : State}
    (h : s.readable s.pc 1 = false ∨ s.readable s.pc (lengthOf (s.mem.byte s.pc.toNat)) = false) :
    fetch s = .error (.memoryFault .load s.pc) := by
  unfold fetch
  cases h1 : s.readable s.pc 1 with
  | false => rw [fetchRead_miss h1]
  | true =>
    rw [fetchRead_of_readable h1]
    rcases h with h | h
    · rw [h] at h1; cases h1
    · exact fetchRead_miss h

/-! ### What the collaborator leaves alone (rule R1010) -/

/-- Registers, pc, reservation and parameters are as in the other state. -/
def SameBlock (s t : State) : Prop := t.x = s.x ∧ t.f = s.f ∧ t.pc = s.pc ∧ t.resv = s.resv ∧ t.cfg = s.cfg

theorem allocate_sameBlock {s t : State} {n b : Word} {stack : Bool} {draw : Option Word}
    (h : allocate n stack draw s = .ok (b, t)) : SameBlock s t := by
  simp only [allocate] at h
  repeat' split at h
  all_goals cases h
  exact ⟨rfl, rfl, rfl, rfl, rfl⟩

theorem registerHostMemory_sameBlock {s t : State} {b c : Word} {w : Bool} {bs : List Byte}
    (h : registerHostMemory b w bs s = .ok (c, t)) : SameBlock s t := by
  unfold registerHostMemory at h
  repeat' split at h
  all_goals cases h
  exact ⟨rfl, rfl, rfl, rfl, rfl⟩

theorem applyGuestOp_sameBlock (op : GuestOp) (s : State) : SameBlock s (applyGuestOp op s) := by
  cases op with
  | poke a b =>
    show SameBlock s (poke a b s)
    unfold poke
    split <;> exact ⟨rfl, rfl, rfl, rfl, rfl⟩
  | allocate n stack draw =>
    show SameBlock s (stateAfter (allocate n stack draw s) s)
    cases h : allocate n stack draw s with
    | ok r => exact allocate_sameBlock h
    | error e => exact ⟨rfl, rfl, rfl, rfl, rfl⟩
  | deallocate a n => exact ⟨rfl, rfl, rfl, rfl, rfl⟩
  | register b w bs =>
    show SameBlock s (stateAfter (registerHostMemory b w bs s) s)
    cases h : registerHostMemory b w bs s with
    | ok r => exact registerHostMemory_sameBlock h
    | error e => exact ⟨rfl, rfl, rfl, rfl, rfl⟩

theorem applyGuestOps_sameBlock (ops : List GuestOp) (s : State) : SameBlock s (applyGuestOps ops s) := by
  induction ops generalizing s with
  | nil => exact ⟨rfl, rfl, rfl, rfl, rfl⟩
  | cons op rest ih =>
    obtain ⟨a1, a2, a3, a4, a5⟩ := applyGuestOp_sameBlock op s
    obtain ⟨b1, b2, b3, b4, b5⟩ := ih (applyGuestOp op s)
    exact ⟨b1.trans a1, b2.trans a2, b3.trans a3, b4.trans a4, b5.trans a5⟩

theorem allocate_syscalls {s t : State} {n b : Word} {stack : Bool} {draw : Option Word}
    (h : allocate n stack draw s = .ok (b, t)) : t.syscalls = s.syscalls := by
  simp only [allocate] at h
  repeat' split at h
  all_goals cases h
  rfl

theorem registerHostMemory_syscalls {s t : State} {b c : Word} {w : Bool} {bs : List Byte}
    (h : registerHostMemory b w bs s = .ok (c, t)) : t.syscalls = s.syscalls := by
  unfold registerHostMemory at h
  repeat' split at h
  all_goals cases h
  rfl

/-- The collaborator's effects leave the answers to come alone. -/
@[simp] theorem applyGuestOp_syscalls (op : GuestOp) (s : State) : (applyGuestOp op s).syscalls = s.syscalls := by
  cases op with
  | poke a b =>
    show (poke a b s).syscalls = s.syscalls
    unfold poke
    split <;> rfl
  | allocate n stack draw =>
    show (stateAfter (allocate n stack draw s) s).syscalls = s.syscalls
    cases h : allocate n stack draw s with
    | ok r => exact allocate_syscalls h
    | error e => rfl
  | deallocate a n => rfl
  | register b w bs =>
    show (stateAfter (registerHostMemory b w bs s) s).syscalls = s.syscalls
    cases h : registerHostMemory b w bs s with
    | ok r => exact registerHostMemory_syscalls h
    | error e => rfl

@[simp] theorem applyGuestOps_syscalls (ops : List GuestOp) (s : State) :
    (applyGuestOps ops s).syscalls = s.syscalls := by
  induction ops generalizing s with
  | nil => rfl
  | cons op rest ih => exact (ih _).trans (applyGuestOp_syscalls op s)

/-! ### A call, by its answer -/

theorem syscall_nil {c : SyscallCall} {s : State} (h : s.syscalls = []) :
    syscall c s = (settleResult c (.ret (notImplementedValue s.cfg)), s) := by
  unfold syscall
  rw [h]

theorem syscall_cons {c : SyscallCall} {s : State} {a : SyscallAnswer} {rest : List SyscallAnswer}
    (h : s.syscalls = a :: rest) :
    syscall c s
      = (settleResult c (answerResult a s.cfg), applyGuestOps (answerEffects a) { s with syscalls := rest }) := by
  unfold syscall
  rw [h]

theorem settleResult_other {c : SyscallCall} (h : c.number ≠ 93) (k : c.number ≠ 94) (r : SyscallResult) :
    settleResult c r = r := by
  unfold settleResult
  rw [if_neg h, if_neg k]

/-- A call changes memory, the region table and the answers to come, and nothing else. -/
theorem syscall_sameBlock (c : SyscallCall) (s : State) : SameBlock s (syscall c s).2 := by
  unfold syscall
  split
  · exact ⟨rfl, rfl, rfl, rfl, rfl⟩
  · exact applyGuestOps_sameBlock _ _

end Sys2Proof.Machine
end

