-- ==== Sys2Proof/Tests/Slice0.lean ====
section
/-! SUPPORT. The model's own tests: ill-formed terms, one word per constructor written out from the spec's encoding of it,
single steps with the results 95_test_vectors.md states, and a witness for the hypotheses of every statement. -/

-- One theorem at a time: a file of kernel evaluations elaborated in parallel starts more threads than memory holds.
set_option Elab.async false

namespace Sys2Proof.Tests

open Sys2Proof.Machine Sys2Proof.Claims

/-! ### Ill-formed terms: one for each check of `Instr.wf` -/

theorem test_illformed_upper_low_bits : (.lui 1 0x1001 : Instr).wf = false := by decide

theorem test_illformed_upper_not_sign_extended : (.auipc 1 0x80000000 : Instr).wf = false := by decide

theorem test_illformed_jump_odd : (.jal 1 3 : Instr).wf = false := by decide

theorem test_illformed_jump_far : (.jal 1 0x100000 : Instr).wf = false := by decide

theorem test_illformed_immediate_too_large : (.addi 1 2 2048 : Instr).wf = false := by decide

theorem test_illformed_load_immediate_too_small : (.ld 1 2 (-2049) : Instr).wf = false := by decide

theorem test_illformed_store_immediate_too_large : (.sd 1 2 2048 : Instr).wf = false := by decide

theorem test_illformed_float_immediate_too_large : (.fld 1 2 2048 : Instr).wf = false := by decide

theorem test_illformed_branch_odd : (.beq 1 2 1 : Instr).wf = false := by decide

theorem test_illformed_branch_far : (.bgeu 1 2 4096 : Instr).wf = false := by decide

theorem test_illformed_c_addi4spn_zero : (.cAddi4spn 8 0 : Instr).wf = false := by decide

theorem test_illformed_c_addi4spn_scale : (.cAddi4spn 8 2 : Instr).wf = false := by decide

theorem test_illformed_c_addi4spn_register : (.cAddi4spn 7 4 : Instr).wf = false := by decide

theorem test_illformed_c_fld_register : (.cFld 16 8 8 : Instr).wf = false := by decide

theorem test_illformed_c_ld_base : (.cLd 8 7 8 : Instr).wf = false := by decide

theorem test_illformed_c_ld_scale : (.cLd 8 9 4 : Instr).wf = false := by decide

theorem test_illformed_c_ld_range : (.cLd 8 9 256 : Instr).wf = false := by decide

theorem test_illformed_c_lw_scale : (.cLw 8 9 2 : Instr).wf = false := by decide

theorem test_illformed_c_lw_range : (.cLw 8 9 128 : Instr).wf = false := by decide

theorem test_illformed_c_fsd_base : (.cFsd 16 8 8 : Instr).wf = false := by decide

theorem test_illformed_c_sd_register : (.cSd 8 7 8 : Instr).wf = false := by decide

theorem test_illformed_c_sw_scale : (.cSw 8 9 6 : Instr).wf = false := by decide

theorem test_illformed_c_addi_is_nop : (.cAddi 0 0 : Instr).wf = false := by decide

theorem test_illformed_c_addi_range : (.cAddi 1 32 : Instr).wf = false := by decide

theorem test_illformed_c_addiw_x0 : (.cAddiw 0 1 : Instr).wf = false := by decide

theorem test_illformed_c_li_range : (.cLi 1 (-33) : Instr).wf = false := by decide

theorem test_illformed_c_addi16sp_zero : (.cAddi16sp 0 : Instr).wf = false := by decide

theorem test_illformed_c_addi16sp_scale : (.cAddi16sp 8 : Instr).wf = false := by decide

theorem test_illformed_c_lui_x2 : (.cLui 2 0x1000 : Instr).wf = false := by decide

theorem test_illformed_c_lui_zero : (.cLui 1 0 : Instr).wf = false := by decide

theorem test_illformed_c_lui_range : (.cLui 1 0x20000 : Instr).wf = false := by decide

theorem test_illformed_c_srli_register : (.cSrli 7 1 : Instr).wf = false := by decide

theorem test_illformed_c_srai_register : (.cSrai 16 1 : Instr).wf = false := by decide

theorem test_illformed_c_andi_register : (.cAndi 7 1 : Instr).wf = false := by decide

theorem test_illformed_c_andi_range : (.cAndi 8 32 : Instr).wf = false := by decide

theorem test_illformed_c_sub_register : (.cSub 8 16 : Instr).wf = false := by decide

theorem test_illformed_c_addw_register : (.cAddw 7 8 : Instr).wf = false := by decide

theorem test_illformed_c_j_odd : (.cJ 1 : Instr).wf = false := by decide

theorem test_illformed_c_j_range : (.cJ 2048 : Instr).wf = false := by decide

theorem test_illformed_c_beqz_register : (.cBeqz 7 2 : Instr).wf = false := by decide

theorem test_illformed_c_bnez_range : (.cBnez 8 256 : Instr).wf = false := by decide

theorem test_illformed_c_fldsp_scale : (.cFldsp 1 4 : Instr).wf = false := by decide

theorem test_illformed_c_fsdsp_range : (.cFsdsp 1 512 : Instr).wf = false := by decide

theorem test_illformed_c_lwsp_x0 : (.cLwsp 0 4 : Instr).wf = false := by decide

theorem test_illformed_c_lwsp_range : (.cLwsp 1 256 : Instr).wf = false := by decide

theorem test_illformed_c_ldsp_x0 : (.cLdsp 0 8 : Instr).wf = false := by decide

theorem test_illformed_c_sdsp_scale : (.cSdsp 1 4 : Instr).wf = false := by decide

theorem test_illformed_c_swsp_scale : (.cSwsp 1 2 : Instr).wf = false := by decide

theorem test_illformed_c_jr_x0 : (.cJr 0 : Instr).wf = false := by decide

theorem test_illformed_c_jalr_x0 : (.cJalr 0 : Instr).wf = false := by decide

theorem test_illformed_c_mv_x0 : (.cMv 1 0 : Instr).wf = false := by decide

theorem test_illformed_c_add_x0 : (.cAdd 1 0 : Instr).wf = false := by decide

/-! ### Decoding: for every constructor a word with its fields filled in from the spec's encoding tables (30_encoding.md) -/

theorem test_decode_control_upper :
    ([(0b10000011000111001000_11101_0110111, .lui 29 (-2095284224)),
      (0b10100111001001001110_00100_0010111, .auipc 4 (-1490755584)),
      (0b10101011110111001011_10100_1101111, .jal 20 (-214340)),
      (0b110110101101_10011_000_00111_1100111, .jalr 7 19 (-595)),
      (0b1101000_10010_00101_000_10001_1100011, .beq 5 18 (-752)),
      (0b0011110_01111_00110_001_00100_1100011, .bne 6 15 964),
      (0b0000001_11110_01111_100_11000_1100011, .blt 15 30 56),
      (0b0011010_10011_10101_101_10000_1100011, .bge 21 19 848),
      (0b0011111_00011_01010_110_11010_1100011, .bltu 10 3 1018),
      (0b0101111_01010_11010_111_10010_1100011, .bgeu 26 10 1522)] : List (BitVec 32 × Instr)).all
      (fun p => decodeFull p.1 == .instr p.2 && p.2.wf) = true := by decide +kernel

theorem test_decode_load_store :
    ([(0b111111110011_01011_000_01110_0000011, .lb 14 11 (-13)),
      (0b011010000000_01110_001_11111_0000011, .lh 31 14 1664),
      (0b011001100000_10100_010_10010_0000011, .lw 18 20 1632),
      (0b110101100100_10010_011_00011_0000011, .ld 3 18 (-668)),
      (0b110000100100_10111_100_11010_0000011, .lbu 26 23 (-988)),
      (0b111111010111_11101_101_10001_0000011, .lhu 17 29 (-41)),
      (0b111010111100_10101_110_10111_0000011, .lwu 23 21 (-324)),
      (0b0000010_00101_11110_000_01011_0100011, .sb 30 5 75),
      (0b0010110_00110_10001_001_01110_0100011, .sh 17 6 718),
      (0b1101010_10101_11100_010_00100_0100011, .sw 28 21 (-700)),
      (0b1001010_00101_01111_011_01110_0100011, .sd 15 5 (-1714)),
      (0b101011011110_00111_010_00011_0000111, .flw 3 7 (-1314)),
      (0b1001110_10101_11010_010_10111_0100111, .fsw 26 21 (-1577)),
      (0b001000001010_10101_011_11110_0000111, .fld 30 21 522),
      (0b0110101_11100_11010_011_10101_0100111, .fsd 26 28 1717)] : List (BitVec 32 × Instr)).all
      (fun p => decodeFull p.1 == .instr p.2 && p.2.wf) = true := by decide +kernel

theorem test_decode_integer_immediate :
    ([(0b010000011010_10001_000_01010_0010011, .addi 10 17 1050),
      (0b110010000101_10010_010_00011_0010011, .slti 3 18 (-891)),
      (0b101011010110_10111_011_11111_0010011, .sltiu 31 23 (-1322)),
      (0b100110100111_01011_100_11101_0010011, .xori 29 11 (-1625)),
      (0b111011001110_10001_110_11010_0010011, .ori 26 17 (-306)),
      (0b010100010110_11100_111_10000_0010011, .andi 16 28 1302),
      (0b000000_100110_01000_001_10110_0010011, .slli 22 8 38),
      (0b000000_001101_00110_101_10011_0010011, .srli 19 6 13),
      (0b010000_110000_01110_101_01111_0010011, .srai 15 14 48),
      (0b010011111000_00100_000_01101_0011011, .addiw 13 4 1272),
      (0b0000000_01011_11111_001_01010_0011011, .slliw 10 31 11),
      (0b0000000_10010_00111_101_00100_0011011, .srliw 4 7 18),
      (0b0100000_00001_10001_101_11110_0011011, .sraiw 30 17 1)] : List (BitVec 32 × Instr)).all
      (fun p => decodeFull p.1 == .instr p.2 && p.2.wf) = true := by decide +kernel

theorem test_decode_integer_register :
    ([(0b0000000_10110_00110_000_10011_0110011, .add 19 6 22),
      (0b0100000_01101_01011_000_10001_0110011, .sub 17 11 13),
      (0b0000000_11110_10011_001_01010_0110011, .sll 10 19 30),
      (0b0000000_10111_00100_010_11001_0110011, .slt 25 4 23),
      (0b0000000_00011_10101_011_01101_0110011, .sltu 13 21 3),
      (0b0000000_11110_10110_100_00011_0110011, .xor 3 22 30),
      (0b0000000_10001_11100_101_01000_0110011, .srl 8 28 17),
      (0b0100000_00011_10010_101_00110_0110011, .sra 6 18 3),
      (0b0000000_10010_01010_110_01101_0110011, .or 13 10 18),
      (0b0000000_11111_01011_111_11001_0110011, .and 25 11 31),
      (0b0000000_10101_10111_000_10110_0111011, .addw 22 23 21),
      (0b0100000_01111_11010_000_01000_0111011, .subw 8 26 15),
      (0b0000000_10110_01101_001_00001_0111011, .sllw 1 13 22),
      (0b0000000_10110_11110_101_11011_0111011, .srlw 27 30 22),
      (0b0100000_11110_11101_101_01110_0111011, .sraw 14 29 30)] : List (BitVec 32 × Instr)).all
      (fun p => decodeFull p.1 == .instr p.2 && p.2.wf) = true := by decide +kernel

theorem test_decode_fence_system :
    ([(0b1110_0011_1100_01001_000_00101_0001111, .fence 14 3 12 9 5),
      (0b000000000000_00000_000_00000_1110011, .ecall),
      (0b000000000001_00000_000_00000_1110011, .ebreak)] : List (BitVec 32 × Instr)).all
      (fun p => decodeFull p.1 == .instr p.2 && p.2.wf) = true := by decide +kernel

theorem test_decode_muldiv :
    ([(0b0000001_00100_01011_000_11101_0110011, .mul 29 11 4),
      (0b0000001_10111_11001_001_11010_0110011, .mulh 26 25 23),
      (0b0000001_10010_00110_010_10110_0110011, .mulhsu 22 6 18),
      (0b0000001_01011_11111_011_11100_0110011, .mulhu 28 31 11),
      (0b0000001_11001_00110_100_11101_0110011, .div 29 6 25),
      (0b0000001_10110_11101_101_10100_0110011, .divu 20 29 22),
      (0b0000001_11100_10101_110_01000_0110011, .rem 8 21 28),
      (0b0000001_00001_00101_111_01101_0110011, .remu 13 5 1),
      (0b0000001_01101_10111_000_01110_0111011, .mulw 14 23 13),
      (0b0000001_01101_00110_100_00101_0111011, .divw 5 6 13),
      (0b0000001_01100_10111_101_10110_0111011, .divuw 22 23 12),
      (0b0000001_10000_11101_110_01010_0111011, .remw 10 29 16),
      (0b0000001_11001_00001_111_11111_0111011, .remuw 31 1 25)] : List (BitVec 32 × Instr)).all
      (fun p => decodeFull p.1 == .instr p.2 && p.2.wf) = true := by decide +kernel

theorem test_decode_atomic_word :
    ([(0b00010_0_1_00000_00110_010_10010_0101111, .lrW 18 6 0 1),
      (0b00011_1_1_11010_11001_010_11011_0101111, .scW 27 25 26 1 1),
      (0b00001_1_0_10001_01111_010_01100_0101111, .amoswapW 12 15 17 1 0),
      (0b00000_1_0_00011_11010_010_11100_0101111, .amoaddW 28 26 3 1 0),
      (0b00100_1_1_01011_11100_010_01010_0101111, .amoxorW 10 28 11 1 1),
      (0b01100_0_0_11101_01000_010_00101_0101111, .amoandW 5 8 29 0 0),
      (0b01000_0_0_11000_00011_010_01010_0101111, .amoorW 10 3 24 0 0),
      (0b10000_1_1_10010_10111_010_11010_0101111, .amominW 26 23 18 1 1),
      (0b10100_1_0_00011_11011_010_10110_0101111, .amomaxW 22 27 3 1 0),
      (0b11000_1_0_11001_10101_010_11110_0101111, .amominuW 30 21 25 1 0),
      (0b11100_0_1_01111_01110_010_10010_0101111, .amomaxuW 18 14 15 0 1)] : List (BitVec 32 × Instr)).all
      (fun p => decodeFull p.1 == .instr p.2 && p.2.wf) = true := by decide +kernel

theorem test_decode_atomic_double :
    ([(0b00010_0_1_00000_01110_011_00101_0101111, .lrD 5 14 0 1),
      (0b00011_1_0_00101_10100_011_10001_0101111, .scD 17 20 5 1 0),
      (0b00001_1_0_11000_00001_011_01100_0101111, .amoswapD 12 1 24 1 0),
      (0b00000_1_1_01011_10001_011_11111_0101111, .amoaddD 31 17 11 1 1),
      (0b00100_0_1_00110_10110_011_01100_0101111, .amoxorD 12 22 6 0 1),
      (0b01100_1_1_11010_10011_011_10000_0101111, .amoandD 16 19 26 1 1),
      (0b01000_1_1_11111_01100_011_11000_0101111, .amoorD 24 12 31 1 1),
      (0b10000_1_0_10000_11010_011_11000_0101111, .amominD 24 26 16 1 0),
      (0b10100_1_1_11010_01011_011_01101_0101111, .amomaxD 13 11 26 1 1),
      (0b11000_1_1_01001_01110_011_10100_0101111, .amominuD 20 14 9 1 1),
      (0b11100_0_1_01001_00101_011_01101_0101111, .amomaxuD 13 5 9 0 1)] : List (BitVec 32 × Instr)).all
      (fun p => decodeFull p.1 == .instr p.2 && p.2.wf) = true := by decide +kernel

theorem test_decode_fused :
    ([(0b00010_00_01011_10000_100_01010_1000011, .fmaddS 10 16 11 2 4),
      (0b10010_00_10011_11100_011_10111_1000111, .fmsubS 23 28 19 18 3),
      (0b11111_00_11101_00001_011_10000_1001011, .fnmsubS 16 1 29 31 3),
      (0b11001_00_11110_01111_100_11011_1001111, .fnmaddS 27 15 30 25 4),
      (0b10110_01_11000_00110_011_00111_1000011, .fmaddD 7 6 24 22 3),
      (0b11010_01_00101_00011_000_11111_1000111, .fmsubD 31 3 5 26 0),
      (0b10110_01_01011_11110_010_10010_1001011, .fnmsubD 18 30 11 22 2),
      (0b01001_01_00110_01110_001_10110_1001111, .fnmaddD 22 14 6 9 1)] : List (BitVec 32 × Instr)).all
      (fun p => decodeFull p.1 == .instr p.2 && p.2.wf) = true := by decide +kernel

theorem test_decode_float_single :
    ([(0b0000000_00111_11100_001_10100_1010011, .faddS 20 28 7 1),
      (0b0000100_10001_01010_100_00100_1010011, .fsubS 4 10 17 4),
      (0b0001000_11000_11100_100_11011_1010011, .fmulS 27 28 24 4),
      (0b0001100_01100_10110_100_10010_1010011, .fdivS 18 22 12 4),
      (0b0101100_00000_11101_011_00111_1010011, .fsqrtS 7 29 3),
      (0b0010000_10011_01111_000_11000_1010011, .fsgnjS 24 15 19),
      (0b0010000_01101_00001_001_11001_1010011, .fsgnjnS 25 1 13),
      (0b0010000_10010_01000_010_10001_1010011, .fsgnjxS 17 8 18),
      (0b0010100_01100_11011_000_11100_1010011, .fminS 28 27 12),
      (0b0010100_11001_00100_001_10110_1010011, .fmaxS 22 4 25),
      (0b1100000_00000_10000_011_10111_1010011, .fcvtWS 23 16 3),
      (0b1100000_00001_11001_101_11000_1010011, .fcvtWUS 24 25 5),
      (0b1100000_00010_00100_000_10011_1010011, .fcvtLS 19 4 0),
      (0b1100000_00011_01001_000_11100_1010011, .fcvtLUS 28 9 0),
      (0b1101000_00000_00011_110_01001_1010011, .fcvtSW 9 3 6),
      (0b1101000_00001_01000_001_11110_1010011, .fcvtSWU 30 8 1),
      (0b1101000_00010_10101_101_01000_1010011, .fcvtSL 8 21 5),
      (0b1101000_00011_10011_101_00111_1010011, .fcvtSLU 7 19 5),
      (0b1010000_01011_11011_010_10010_1010011, .feqS 18 27 11),
      (0b1010000_01101_10001_001_00101_1010011, .fltS 5 17 13),
      (0b1010000_10111_00110_000_01111_1010011, .fleS 15 6 23),
      (0b1110000_00000_01101_001_11011_1010011, .fclassS 27 13),
      (0b1110000_00000_10001_000_01100_1010011, .fmvXW 12 17),
      (0b1111000_00000_01110_000_00100_1010011, .fmvWX 4 14),
      (0b0100000_00001_01000_101_10010_1010011, .fcvtSD 18 8 5)] : List (BitVec 32 × Instr)).all
      (fun p => decodeFull p.1 == .instr p.2 && p.2.wf) = true := by decide +kernel

theorem test_decode_float_double :
    ([(0b0000001_00011_01110_110_10000_1010011, .faddD 16 14 3 6),
      (0b0000101_00001_01100_010_10110_1010011, .fsubD 22 12 1 2),
      (0b0001001_11101_11010_001_10111_1010011, .fmulD 23 26 29 1),
      (0b0001101_11111_00110_011_00111_1010011, .fdivD 7 6 31 3),
      (0b0101101_00000_00100_101_00101_1010011, .fsqrtD 5 4 5),
      (0b0010001_01010_10101_000_00111_1010011, .fsgnjD 7 21 10),
      (0b0010001_00001_11110_001_10100_1010011, .fsgnjnD 20 30 1),
      (0b0010001_01100_11011_010_00111_1010011, .fsgnjxD 7 27 12),
      (0b0010101_00001_01100_000_11010_1010011, .fminD 26 12 1),
      (0b0010101_01101_11101_001_00100_1010011, .fmaxD 4 29 13),
      (0b1100001_00000_01001_100_10101_1010011, .fcvtWD 21 9 4),
      (0b1100001_00001_11000_111_00001_1010011, .fcvtWUD 1 24 7),
      (0b1100001_00010_10100_001_11011_1010011, .fcvtLD 27 20 1),
      (0b1100001_00011_01100_110_01111_1010011, .fcvtLUD 15 12 6),
      (0b1101001_00000_10010_111_01001_1010011, .fcvtDW 9 18 7),
      (0b1101001_00001_01100_111_10000_1010011, .fcvtDWU 16 12 7),
      (0b1101001_00010_00111_111_10001_1010011, .fcvtDL 17 7 7),
      (0b1101001_00011_11011_010_01110_1010011, .fcvtDLU 14 27 2),
      (0b1010001_11101_10011_010_10000_1010011, .feqD 16 19 29),
      (0b1010001_00001_10001_001_01111_1010011, .fltD 15 17 1),
      (0b1010001_01000_01010_000_01100_1010011, .fleD 12 10 8),
      (0b1110001_00000_00011_001_10000_1010011, .fclassD 16 3),
      (0b1110001_00000_10010_000_00110_1010011, .fmvXD 6 18),
      (0b1111001_00000_00001_000_01001_1010011, .fmvDX 9 1),
      (0b0100001_00000_10110_011_11111_1010011, .fcvtDS 31 22 3)] : List (BitVec 32 × Instr)).all
      (fun p => decodeFull p.1 == .instr p.2 && p.2.wf) = true := by decide +kernel

theorem test_decode_compressed_q0 :
    ([(0b000_10011010_100_00, .cAddi4spn 12 420),
      (0b001_011_111_10_001_00, .cFld 9 15 152),
      (0b010_111_100_10_110_00, .cLw 14 12 60),
      (0b011_001_001_11_101_00, .cLd 13 9 200),
      (0b101_001_010_00_110_00, .cFsd 10 14 8),
      (0b110_110_000_11_111_00, .cSw 8 15 116),
      (0b111_100_000_11_010_00, .cSd 8 10 224)] : List (BitVec 16 × Instr)).all
      (fun p => decodeHalf p.1 == .instr p.2 && p.2.wf) = true := by decide +kernel

theorem test_decode_compressed_q1 :
    ([(0b000_0_00000_00000_01, .cNop),
      (0b000_0_00110_00011_01, .cAddi 6 3),
      (0b001_0_01010_11110_01, .cAddiw 10 30),
      (0b010_0_00111_00001_01, .cLi 7 1),
      (0b011_0_00010_00100_01, .cAddi16sp 256),
      (0b011_1_01100_10111_01, .cLui 12 (-36864)),
      (0b100_1_00_001_10101_01, .cSrli 9 53),
      (0b100_0_01_000_11010_01, .cSrai 8 26),
      (0b100_010_110_10110_01, .cAndi 14 22),
      (0b100011_101_00_111_01, .cSub 13 15),
      (0b100011_110_01_101_01, .cXor 14 13),
      (0b100011_111_10_100_01, .cOr 15 12),
      (0b100011_100_11_101_01, .cAnd 12 13),
      (0b100111_010_00_110_01, .cSubw 10 14),
      (0b100111_110_01_111_01, .cAddw 14 15),
      (0b101_01100011111_01, .cJ 702),
      (0b110_111_010_01010_01, .cBeqz 10 (-166)),
      (0b111_100_100_00110_01, .cBnez 12 (-250))] : List (BitVec 16 × Instr)).all
      (fun p => decodeHalf p.1 == .instr p.2 && p.2.wf) = true := by decide +kernel

theorem test_decode_compressed_q2 :
    ([(0b000_1_01100_11110_10, .cSlli 12 62),
      (0b001_1_01011_00101_10, .cFldsp 11 352),
      (0b010_1_10010_11001_10, .cLwsp 18 120),
      (0b011_1_11110_11001_10, .cLdsp 30 120),
      (0b1000_01110_00000_10, .cJr 14),
      (0b1000_01110_00100_10, .cMv 14 4),
      (0b1001_00000_00000_10, .cEbreak),
      (0b1001_00101_00000_10, .cJalr 5),
      (0b1001_10100_01100_10, .cAdd 20 12),
      (0b101_011100_11111_10, .cFsdsp 31 280),
      (0b110_010101_10010_10, .cSwsp 18 84),
      (0b111_111010_00011_10, .cSdsp 3 184)] : List (BitVec 16 × Instr)).all
      (fun p => decodeHalf p.1 == .instr p.2 && p.2.wf) = true := by decide +kernel

/-- Words the decoder refuses (95_test_vectors.md section 2.11). -/
theorem test_decode_invalid :
    ([([0x00, 0x00], some (.invalid 0x0000 2, 2)),
      ([0xff, 0xff, 0xff, 0xff], some (.invalid 0xFFFFFFFF 4, 4)),
      ([0x1f, 0x00, 0x00, 0x00], some (.invalid 0x0000001F 4, 4)),
      ([0x3f, 0x00, 0x00, 0x00], some (.invalid 0x0000003F 4, 4)),
      ([0x7f, 0x00, 0x00, 0x00], some (.invalid 0x0000007F 4, 4)),
      ([0x0b, 0x00, 0x00, 0x00], some (.invalid 0x0000000B 4, 4)),
      ([0x57, 0x00, 0x00, 0x00], some (.invalid 0x00000057 4, 4)),
      ([0x73, 0x25, 0x00, 0xc0], some (.invalid 0xC0002573 4, 4)),
      ([0x0f, 0x10, 0x00, 0x00], some (.invalid 0x0000100F 4, 4)),
      ([0x73, 0x00, 0x20, 0x30], some (.invalid 0x30200073 4, 4)),
      ([0x73, 0x00, 0x50, 0x10], some (.invalid 0x10500073 4, 4)),
      ([0x73, 0x00, 0x00, 0x12], some (.invalid 0x12000073 4, 4)),
      ([0xf3, 0x00, 0x00, 0x00], some (.invalid 0x000000F3 4, 4)),
      ([0x13, 0x15, 0x05, 0x04], some (.invalid 0x04051513 4, 4)),
      ([0x13, 0x55, 0x05, 0x60], some (.invalid 0x60055513 4, 4)),
      ([0x1b, 0x15, 0x05, 0x02], some (.invalid 0x0205151B 4, 4)),
      ([0x33, 0x05, 0xb5, 0x80], some (.invalid 0x80B50533 4, 4)),
      ([0x2f, 0xa5, 0xc5, 0x10], some (.invalid 0x10C5A52F 4, 4))] ++
     [([0x2f, 0xc5, 0xc5, 0x00], some (.invalid 0x00C5C52F 4, 4)),
      ([0x53, 0xf5, 0xc5, 0x04], some (.invalid 0x04C5F553 4, 4)),
      ([0x53, 0xa5, 0x05, 0xe0], some (.invalid 0xE005A553 4, 4)),
      ([0x53, 0xf5, 0x25, 0x40], some (.invalid 0x4025F553 4, 4)),
      ([0x07, 0x45, 0x05, 0x00], some (.invalid 0x00054507 4, 4)),
      ([0x03, 0xf5, 0x05, 0x00], some (.invalid 0x0005F503 4, 4)),
      ([0x63, 0x25, 0xb5, 0x00], some (.invalid 0x00B52563 4, 4)),
      ([0x67, 0x15, 0x05, 0x00], some (.invalid 0x00051567 4, 4)),
      ([0x01, 0x60], some (.invalid 0x6001 2, 2)),
      ([0x01, 0x65], some (.invalid 0x6501 2, 2)),
      ([0x01, 0x61], some (.invalid 0x6101 2, 2)),
      ([0x01, 0x20], some (.invalid 0x2001 2, 2)),
      ([0x02, 0x40], some (.invalid 0x4002 2, 2)),
      ([0x02, 0x60], some (.invalid 0x6002 2, 2)),
      ([0x02, 0x80], some (.invalid 0x8002 2, 2)),
      ([0x00, 0x80], some (.invalid 0x8000 2, 2)),
      ([0x41, 0x9d], some (.invalid 0x9D41 2, 2)),
      ([0x61, 0x9d], some (.invalid 0x9D61 2, 2))] :
      List (List Byte × Option (Decoded × Nat))).all (fun p => decide (decode p.1 = p.2)) = true := by decide +kernel

/-- Windows with too few bytes (95_test_vectors.md section 2.11). -/
theorem test_decode_short :
    ([([], none),
      ([0x13], none),
      ([0x01], none),
      ([0x13, 0x05], none),
      ([0x13, 0x05, 0xb0], none)] :
      List (List Byte × Option (Decoded × Nat))).all (fun p => decide (decode p.1 = p.2)) = true := by decide +kernel

/-! ### The launch state of 95_test_vectors.md section 2.1 -/

/-- A read-only code region at 0x1000 with the instruction at its start, a writable data region at 0x8000,
      pc at 0x1000. -/
def launch (code : List Byte) : State :=
  { State.reset with
    pc := 0x1000
    regions := [⟨0x1000, 0x1000, false, false⟩, ⟨0x8000, 0x1000, true, true⟩]
    mem := Memory.setBytes [] 0x1000 code }

/-- The bytes of a 32-bit word. -/
def w32 (w : BitVec 32) : List Byte := leBytes 4 (w.setWidth 64)

/-- The bytes of a 16-bit word. -/
def w16 (w : BitVec 16) : List Byte := leBytes 2 (w.setWidth 64)

/-- Memory holds an n-byte value at a. -/
def withMem (a n : Nat) (v : Word) (s : State) : State := { s with mem := s.mem.setBytes a (leBytes n v) }

/-- Memory holds these bytes from a up. -/
def withBytes (a : Nat) (v : List Byte) (s : State) : State := { s with mem := s.mem.setBytes a v }

/-- The reservation is r. -/
def withResv (r : Option (Word × ResvWidth)) (s : State) : State := { s with resv := r }

/-- The pc is p. -/
def withPc (p : Word) (s : State) : State := { s with pc := p }

/-- The implemented atomics are l. -/
def withAtomics (l : List AtomicOp) (s : State) : State := { s with cfg := { s.cfg with implementedAtomics := l } }

/-- The syscall answers to come are l. -/
def withSyscalls (l : List SyscallAnswer) (s : State) : State := { s with syscalls := l }

/-- One step from s leaves t and has this outcome (rules R130, R500). -/
def stepsTo (s t : State) (o : StepOutcome) : Bool := decide (stepOutcome s = some (t, o))

/-! ### Single steps (95_test_vectors.md sections 2.3 to 2.10): at most two per instruction -/

/-- INT-1: `add a0, a1, a2`. -/
theorem test_step_int_1 :
    let s := launch (w32 0x00C58533) |>.setX 11 0x7FFFFFFFFFFFFFFF |>.setX 12 0x0000000000000001
    stepsTo s (s |>.setX 10 0x8000000000000000 |> withPc 0x1004) (.next) = true := by decide +kernel

/-- INT-2: `sub a0, a1, a2`. -/
theorem test_step_int_2 :
    let s := launch (w32 0x40C58533) |>.setX 12 0x0000000000000001
    stepsTo s (s |>.setX 10 0xFFFFFFFFFFFFFFFF |> withPc 0x1004) (.next) = true := by decide +kernel

/-- INT-3: `sll a0, a1, a2`. -/
theorem test_step_int_3 :
    let s := launch (w32 0x00C59533) |>.setX 11 0x0000000000000001 |>.setX 12 0x0000000000000041
    stepsTo s (s |>.setX 10 0x0000000000000002 |> withPc 0x1004) (.next) = true := by decide +kernel

/-- INT-4: `slt a0, a1, a2`. -/
theorem test_step_int_4 :
    let s := launch (w32 0x00C5A533) |>.setX 11 0xFFFFFFFFFFFFFFFF |>.setX 12 0x0000000000000001
    stepsTo s (s |>.setX 10 0x0000000000000001 |> withPc 0x1004) (.next) = true := by decide +kernel

/-- INT-5: `sltu a0, a1, a2`. -/
theorem test_step_int_5 :
    let s := launch (w32 0x00C5B533) |>.setX 10 0x0000000000000005 |>.setX 11 0xFFFFFFFFFFFFFFFF
        |>.setX 12 0x0000000000000001
    stepsTo s (s |>.setX 10 0x0000000000000000 |> withPc 0x1004) (.next) = true := by decide +kernel

/-- INT-6: `xor a0, a1, a2`. -/
theorem test_step_int_6 :
    let s := launch (w32 0x00C5C533) |>.setX 11 0xFF00FF00FF00FF00 |>.setX 12 0x0FF00FF00FF00FF0
    stepsTo s (s |>.setX 10 0xF0F0F0F0F0F0F0F0 |> withPc 0x1004) (.next) = true := by decide +kernel

/-- INT-7: `srl a0, a1, a2`. -/
theorem test_step_int_7 :
    let s := launch (w32 0x00C5D533) |>.setX 11 0x8000000000000000 |>.setX 12 0x000000000000003F
    stepsTo s (s |>.setX 10 0x0000000000000001 |> withPc 0x1004) (.next) = true := by decide +kernel

/-- INT-8: `sra a0, a1, a2`. -/
theorem test_step_int_8 :
    let s := launch (w32 0x40C5D533) |>.setX 11 0x8000000000000000 |>.setX 12 0x000000000000003F
    stepsTo s (s |>.setX 10 0xFFFFFFFFFFFFFFFF |> withPc 0x1004) (.next) = true := by decide +kernel

/-- INT-9: `or a0, a1, a2`. -/
theorem test_step_int_9 :
    let s := launch (w32 0x00C5E533) |>.setX 11 0x00000000000000F0 |>.setX 12 0x000000000000000F
    stepsTo s (s |>.setX 10 0x00000000000000FF |> withPc 0x1004) (.next) = true := by decide +kernel

/-- INT-10: `and a0, a1, a2`. -/
theorem test_step_int_10 :
    let s := launch (w32 0x00C5F533) |>.setX 11 0x000000000000F0F0 |>.setX 12 0x000000000000FF00
    stepsTo s (s |>.setX 10 0x000000000000F000 |> withPc 0x1004) (.next) = true := by decide +kernel

/-- INT-11: `addi a0, a1, -2048`. -/
theorem test_step_int_11 :
    let s := launch (w32 0x80058513) |>.setX 11 0x0000000000000000
    stepsTo s (s |>.setX 10 0xFFFFFFFFFFFFF800 |> withPc 0x1004) (.next) = true := by decide +kernel

/-- INT-13: `addi x0, a1, 5`. -/
theorem test_step_int_13 :
    let s := launch (w32 0x00558013) |>.setX 11 0x0000000000000001
    stepsTo s (s |> withPc 0x1004) (.next) = true := by decide +kernel

/-- INT-14: `slti a0, a1, -1`. -/
theorem test_step_int_14 :
    let s := launch (w32 0xFFF5A513) |>.setX 11 0xFFFFFFFFFFFFFFFE
    stepsTo s (s |>.setX 10 0x0000000000000001 |> withPc 0x1004) (.next) = true := by decide +kernel

/-- INT-15: `sltiu a0, a1, -1`. -/
theorem test_step_int_15 :
    let s := launch (w32 0xFFF5B513) |>.setX 11 0xFFFFFFFFFFFFFFFE
    stepsTo s (s |>.setX 10 0x0000000000000001 |> withPc 0x1004) (.next) = true := by decide +kernel

/-- INT-17: `xori a0, a1, -1 (not)`. -/
theorem test_step_int_17 :
    let s := launch (w32 0xFFF5C513) |>.setX 11 0x00000000FFFFFFFF
    stepsTo s (s |>.setX 10 0xFFFFFFFF00000000 |> withPc 0x1004) (.next) = true := by decide +kernel

/-- INT-18: `ori a0, a1, -16`. -/
theorem test_step_int_18 :
    let s := launch (w32 0xFF05E513) |>.setX 11 0x0000000000000003
    stepsTo s (s |>.setX 10 0xFFFFFFFFFFFFFFF3 |> withPc 0x1004) (.next) = true := by decide +kernel

/-- INT-19: `andi a0, a1, 0x7FF`. -/
theorem test_step_int_19 :
    let s := launch (w32 0x7FF5F513) |>.setX 11 0xFFFFFFFFFFFFFFFF
    stepsTo s (s |>.setX 10 0x00000000000007FF |> withPc 0x1004) (.next) = true := by decide +kernel

/-- INT-20: `slli a0, a1, 63`. -/
theorem test_step_int_20 :
    let s := launch (w32 0x03F59513) |>.setX 11 0x0000000000000003
    stepsTo s (s |>.setX 10 0x8000000000000000 |> withPc 0x1004) (.next) = true := by decide +kernel

/-- INT-21: `srli a0, a1, 32`. -/
theorem test_step_int_21 :
    let s := launch (w32 0x0205D513) |>.setX 11 0xFFFFFFFFFFFFFFFF
    stepsTo s (s |>.setX 10 0x00000000FFFFFFFF |> withPc 0x1004) (.next) = true := by decide +kernel

/-- INT-22: `srai a0, a1, 4`. -/
theorem test_step_int_22 :
    let s := launch (w32 0x4045D513) |>.setX 11 0x8000000000000010
    stepsTo s (s |>.setX 10 0xF800000000000001 |> withPc 0x1004) (.next) = true := by decide +kernel

/-- INT-23: `addw a0, a1, a2`. -/
theorem test_step_int_23 :
    let s := launch (w32 0x00C5853B) |>.setX 11 0x000000007FFFFFFF |>.setX 12 0x0000000000000001
    stepsTo s (s |>.setX 10 0xFFFFFFFF80000000 |> withPc 0x1004) (.next) = true := by decide +kernel

/-- INT-25: `subw a0, a1, a2`. -/
theorem test_step_int_25 :
    let s := launch (w32 0x40C5853B) |>.setX 11 0x0000000000000000 |>.setX 12 0x0000000080000000
    stepsTo s (s |>.setX 10 0xFFFFFFFF80000000 |> withPc 0x1004) (.next) = true := by decide +kernel

/-- INT-26: `sllw a0, a1, a2`. -/
theorem test_step_int_26 :
    let s := launch (w32 0x00C5953B) |>.setX 11 0x0000000000000001 |>.setX 12 0x000000000000003F
    stepsTo s (s |>.setX 10 0xFFFFFFFF80000000 |> withPc 0x1004) (.next) = true := by decide +kernel

/-- INT-27: `srlw a0, a1, a2`. -/
theorem test_step_int_27 :
    let s := launch (w32 0x00C5D53B) |>.setX 11 0xFFFFFFFF80000000 |>.setX 12 0x0000000000000000
    stepsTo s (s |>.setX 10 0xFFFFFFFF80000000 |> withPc 0x1004) (.next) = true := by decide +kernel

/-- INT-28: `srlw a0, a1, a2`. -/
theorem test_step_int_28 :
    let s := launch (w32 0x00C5D53B) |>.setX 11 0xFFFFFFFF80000000 |>.setX 12 0x0000000000000001
    stepsTo s (s |>.setX 10 0x0000000040000000 |> withPc 0x1004) (.next) = true := by decide +kernel

/-- INT-29: `sraw a0, a1, a2`. -/
theorem test_step_int_29 :
    let s := launch (w32 0x40C5D53B) |>.setX 11 0x0000000080000000 |>.setX 12 0x0000000000000004
    stepsTo s (s |>.setX 10 0xFFFFFFFFF8000000 |> withPc 0x1004) (.next) = true := by decide +kernel

/-- INT-30: `addiw a0, a1, 0 (sext.w)`. -/
theorem test_step_int_30 :
    let s := launch (w32 0x0005851B) |>.setX 11 0x00000000FFFFFFFF
    stepsTo s (s |>.setX 10 0xFFFFFFFFFFFFFFFF |> withPc 0x1004) (.next) = true := by decide +kernel

/-- INT-31: `slliw a0, a1, 31`. -/
theorem test_step_int_31 :
    let s := launch (w32 0x01F5951B) |>.setX 11 0x0000000000000001
    stepsTo s (s |>.setX 10 0xFFFFFFFF80000000 |> withPc 0x1004) (.next) = true := by decide +kernel

/-- INT-32: `srliw a0, a1, 31`. -/
theorem test_step_int_32 :
    let s := launch (w32 0x01F5D51B) |>.setX 11 0x00000000FFFFFFFF
    stepsTo s (s |>.setX 10 0x0000000000000001 |> withPc 0x1004) (.next) = true := by decide +kernel

/-- INT-33: `sraiw a0, a1, 31`. -/
theorem test_step_int_33 :
    let s := launch (w32 0x41F5D51B) |>.setX 11 0x0000000080000000
    stepsTo s (s |>.setX 10 0xFFFFFFFFFFFFFFFF |> withPc 0x1004) (.next) = true := by decide +kernel

/-- INT-35: `c.addi sp, -32`. -/
theorem test_step_int_35 :
    let s := launch (w16 0x1101) |>.setX 2 0x0000000000008100
    stepsTo s (s |>.setX 2 0x00000000000080E0 |> withPc 0x1002) (.next) = true := by decide +kernel

/-- INT-36: `c.li a0, -1`. -/
theorem test_step_int_36 :
    let s := launch (w16 0x557D)
    stepsTo s (s |>.setX 10 0xFFFFFFFFFFFFFFFF |> withPc 0x1002) (.next) = true := by decide +kernel

/-- INT-37: `c.mv a0, a1`. -/
theorem test_step_int_37 :
    let s := launch (w16 0x852E) |>.setX 11 0x0000000000000007
    stepsTo s (s |>.setX 10 0x0000000000000007 |> withPc 0x1002) (.next) = true := by decide +kernel

/-- INT-38: `c.addiw a0, 1`. -/
theorem test_step_int_38 :
    let s := launch (w16 0x2505) |>.setX 10 0x000000007FFFFFFF
    stepsTo s (s |>.setX 10 0xFFFFFFFF80000000 |> withPc 0x1002) (.next) = true := by decide +kernel

/-- INT-39: `c.srai s0, 1`. -/
theorem test_step_int_39 :
    let s := launch (w16 0x8405) |>.setX 8 0x8000000000000000
    stepsTo s (s |>.setX 8 0xC000000000000000 |> withPc 0x1002) (.next) = true := by decide +kernel

/-- INT-40: `c.subw a0, a1`. -/
theorem test_step_int_40 :
    let s := launch (w16 0x9D0D) |>.setX 10 0x0000000000000000 |>.setX 11 0x0000000000000001
    stepsTo s (s |>.setX 10 0xFFFFFFFFFFFFFFFF |> withPc 0x1002) (.next) = true := by decide +kernel

/-- INT-41: `c.slli a0, 4`. -/
theorem test_step_int_41 :
    let s := launch (w16 0x0512) |>.setX 10 0x0F00000000000001
    stepsTo s (s |>.setX 10 0xF000000000000010 |> withPc 0x1002) (.next) = true := by decide +kernel

/-- MUL-1: `mul a0, a1, a2`. -/
theorem test_step_mul_1 :
    let s := launch (w32 0x02C58533) |>.setX 11 0x0000000100000001 |>.setX 12 0x0000000100000001
    stepsTo s (s |>.setX 10 0x0000000200000001 |> withPc 0x1004) (.next) = true := by decide +kernel

/-- MUL-2: `mulh a0, a1, a2`. -/
theorem test_step_mul_2 :
    let s := launch (w32 0x02C59533) |>.setX 10 0x0000000000000005 |>.setX 11 0xFFFFFFFFFFFFFFFF
        |>.setX 12 0xFFFFFFFFFFFFFFFF
    stepsTo s (s |>.setX 10 0x0000000000000000 |> withPc 0x1004) (.next) = true := by decide +kernel

/-- MUL-3: `mulh a0, a1, a2`. -/
theorem test_step_mul_3 :
    let s := launch (w32 0x02C59533) |>.setX 11 0x8000000000000000 |>.setX 12 0x8000000000000000
    stepsTo s (s |>.setX 10 0x4000000000000000 |> withPc 0x1004) (.next) = true := by decide +kernel

/-- MUL-4: `mulhsu a0, a1, a2`. -/
theorem test_step_mul_4 :
    let s := launch (w32 0x02C5A533) |>.setX 11 0xFFFFFFFFFFFFFFFF |>.setX 12 0xFFFFFFFFFFFFFFFF
    stepsTo s (s |>.setX 10 0xFFFFFFFFFFFFFFFF |> withPc 0x1004) (.next) = true := by decide +kernel

/-- MUL-5: `mulhu a0, a1, a2`. -/
theorem test_step_mul_5 :
    let s := launch (w32 0x02C5B533) |>.setX 11 0xFFFFFFFFFFFFFFFF |>.setX 12 0xFFFFFFFFFFFFFFFF
    stepsTo s (s |>.setX 10 0xFFFFFFFFFFFFFFFE |> withPc 0x1004) (.next) = true := by decide +kernel

/-- MUL-6: `div a0, a1, a2`. -/
theorem test_step_mul_6 :
    let s := launch (w32 0x02C5C533) |>.setX 11 0xFFFFFFFFFFFFFFF9 |>.setX 12 0x0000000000000002
    stepsTo s (s |>.setX 10 0xFFFFFFFFFFFFFFFD |> withPc 0x1004) (.next) = true := by decide +kernel

/-- MUL-8: `div a0, a1, a2`. -/
theorem test_step_mul_8 :
    let s := launch (w32 0x02C5C533) |>.setX 11 0x8000000000000000 |>.setX 12 0xFFFFFFFFFFFFFFFF
    stepsTo s (s |>.setX 10 0x8000000000000000 |> withPc 0x1004) (.next) = true := by decide +kernel

/-- MUL-9: `divu a0, a1, a2`. -/
theorem test_step_mul_9 :
    let s := launch (w32 0x02C5D533) |>.setX 11 0x0000000000000005 |>.setX 12 0x0000000000000000
    stepsTo s (s |>.setX 10 0xFFFFFFFFFFFFFFFF |> withPc 0x1004) (.next) = true := by decide +kernel

/-- MUL-11: `rem a0, a1, a2`. -/
theorem test_step_mul_11 :
    let s := launch (w32 0x02C5E533) |>.setX 11 0xFFFFFFFFFFFFFFF9 |>.setX 12 0x0000000000000002
    stepsTo s (s |>.setX 10 0xFFFFFFFFFFFFFFFF |> withPc 0x1004) (.next) = true := by decide +kernel

/-- MUL-14: `rem a0, a1, a2`. -/
theorem test_step_mul_14 :
    let s := launch (w32 0x02C5E533) |>.setX 10 0x0000000000000005 |>.setX 11 0x8000000000000000
        |>.setX 12 0xFFFFFFFFFFFFFFFF
    stepsTo s (s |>.setX 10 0x0000000000000000 |> withPc 0x1004) (.next) = true := by decide +kernel

/-- MUL-15: `remu a0, a1, a2`. -/
theorem test_step_mul_15 :
    let s := launch (w32 0x02C5F533) |>.setX 11 0x0000000000000007 |>.setX 12 0x0000000000000000
    stepsTo s (s |>.setX 10 0x0000000000000007 |> withPc 0x1004) (.next) = true := by decide +kernel

/-- MUL-17: `mulw a0, a1, a2`. -/
theorem test_step_mul_17 :
    let s := launch (w32 0x02C5853B) |>.setX 11 0x0000000000010000 |>.setX 12 0x0000000000008000
    stepsTo s (s |>.setX 10 0xFFFFFFFF80000000 |> withPc 0x1004) (.next) = true := by decide +kernel

/-- MUL-18: `divw a0, a1, a2`. -/
theorem test_step_mul_18 :
    let s := launch (w32 0x02C5C53B) |>.setX 11 0x0000000080000000 |>.setX 12 0x00000000FFFFFFFF
    stepsTo s (s |>.setX 10 0xFFFFFFFF80000000 |> withPc 0x1004) (.next) = true := by decide +kernel

/-- MUL-19: `divw a0, a1, a2`. -/
theorem test_step_mul_19 :
    let s := launch (w32 0x02C5C53B) |>.setX 11 0x0000000000000003 |>.setX 12 0xFFFFFFFF00000000
    stepsTo s (s |>.setX 10 0xFFFFFFFFFFFFFFFF |> withPc 0x1004) (.next) = true := by decide +kernel

/-- MUL-20: `divuw a0, a1, a2`. -/
theorem test_step_mul_20 :
    let s := launch (w32 0x02C5D53B) |>.setX 11 0x00000000FFFFFFFF |>.setX 12 0x0000000000000001
    stepsTo s (s |>.setX 10 0xFFFFFFFFFFFFFFFF |> withPc 0x1004) (.next) = true := by decide +kernel

/-- MUL-22: `remw a0, a1, a2`. -/
theorem test_step_mul_22 :
    let s := launch (w32 0x02C5E53B) |>.setX 10 0x0000000000000005 |>.setX 11 0x0000000080000000
        |>.setX 12 0x00000000FFFFFFFF
    stepsTo s (s |>.setX 10 0x0000000000000000 |> withPc 0x1004) (.next) = true := by decide +kernel

/-- MUL-24: `remuw a0, a1, a2`. -/
theorem test_step_mul_24 :
    let s := launch (w32 0x02C5F53B) |>.setX 11 0x0000000080000005 |>.setX 12 0x0000000000000000
    stepsTo s (s |>.setX 10 0xFFFFFFFF80000005 |> withPc 0x1004) (.next) = true := by decide +kernel

/-- LS-1: `lb a0, 0(a1)`. -/
theorem test_step_ls_1 :
    let s := launch (w32 0x00058503) |>.setX 11 0x0000000000008000 |> withMem 0x8000 1 0x80
    stepsTo s (s |>.setX 10 0xFFFFFFFFFFFFFF80 |> withPc 0x1004) (.next) = true := by decide +kernel

/-- LS-17: `lb a0, -1(zero)`. -/
theorem test_step_ls_17 :
    let s := launch (w32 0xFFF00503)
    stepsTo s s (.halted (.memoryFault .load 0xFFFFFFFFFFFFFFFF)) = true := by decide +kernel

/-- LS-2: `lbu a0, 0(a1)`. -/
theorem test_step_ls_2 :
    let s := launch (w32 0x0005C503) |>.setX 11 0x0000000000008000 |> withMem 0x8000 1 0x80
    stepsTo s (s |>.setX 10 0x0000000000000080 |> withPc 0x1004) (.next) = true := by decide +kernel

/-- LS-3: `lh a0, 2(a1)`. -/
theorem test_step_ls_3 :
    let s := launch (w32 0x00259503) |>.setX 11 0x0000000000008000 |> withMem 0x8002 2 0x8001
    stepsTo s (s |>.setX 10 0xFFFFFFFFFFFF8001 |> withPc 0x1004) (.next) = true := by decide +kernel

/-- LS-4: `lhu a0, 2(a1)`. -/
theorem test_step_ls_4 :
    let s := launch (w32 0x0025D503) |>.setX 11 0x0000000000008000 |> withMem 0x8002 2 0x8001
    stepsTo s (s |>.setX 10 0x0000000000008001 |> withPc 0x1004) (.next) = true := by decide +kernel

/-- LS-5: `lw a0, 4(a1)`. -/
theorem test_step_ls_5 :
    let s := launch (w32 0x0045A503) |>.setX 11 0x0000000000008000 |> withMem 0x8004 4 0xDEADBEEF
    stepsTo s (s |>.setX 10 0xFFFFFFFFDEADBEEF |> withPc 0x1004) (.next) = true := by decide +kernel

/-- LS-13: `lw a0, 0(a1)`. -/
theorem test_step_ls_13 :
    let s := launch (w32 0x0005A503) |>.setX 11 0x0000000000004000 |>.setX 10 0x0000000000000005
    stepsTo s s (.halted (.memoryFault .load 0x0000000000004000)) = true := by decide +kernel

/-- LS-6: `lwu a0, 4(a1)`. -/
theorem test_step_ls_6 :
    let s := launch (w32 0x0045E503) |>.setX 11 0x0000000000008000 |> withMem 0x8004 4 0xDEADBEEF
    stepsTo s (s |>.setX 10 0x00000000DEADBEEF |> withPc 0x1004) (.next) = true := by decide +kernel

/-- LS-7: `ld a0, -8(a1)`. -/
theorem test_step_ls_7 :
    let s := launch (w32 0xFF85B503) |>.setX 11 0x0000000000008010 |> withMem 0x8008 8 0x0102030405060708
    stepsTo s (s |>.setX 10 0x0102030405060708 |> withPc 0x1004) (.next) = true := by decide +kernel

/-- LS-14: `ld a0, 0(a1)`. -/
theorem test_step_ls_14 :
    let s := launch (w32 0x0005B503) |>.setX 11 0x0000000000008FFC
    stepsTo s s (.halted (.memoryFault .load 0x0000000000008FFC)) = true := by decide +kernel

/-- LS-9: `sb a2, 0(a1)`. -/
theorem test_step_ls_9 :
    let s := launch (w32 0x00C58023) |>.setX 11 0x0000000000008000 |>.setX 12 0x0000000000001234
    stepsTo s (s |> withBytes 0x8000 [0x34] |> withPc 0x1004) (.next) = true := by decide +kernel

/-- LS-10: `sh a2, 1(a1)`. -/
theorem test_step_ls_10 :
    let s := launch (w32 0x00C590A3) |>.setX 11 0x0000000000008000 |>.setX 12 0x000000000000ABCD
    stepsTo s (s |> withBytes 0x8001 [0xCD, 0xAB] |> withPc 0x1004) (.next) = true := by decide +kernel

/-- LS-11: `sw a2, 0(a1)`. -/
theorem test_step_ls_11 :
    let s := launch (w32 0x00C5A023) |>.setX 11 0x0000000000008000 |>.setX 12 0x1122334455667788
    stepsTo s (s |> withBytes 0x8000 [0x88, 0x77, 0x66, 0x55] |> withPc 0x1004) (.next) = true := by decide +kernel

/-- LS-12: `sd a2, 0(a1)`. -/
theorem test_step_ls_12 :
    let s := launch (w32 0x00C5B023) |>.setX 11 0x0000000000008000 |>.setX 12 0x1122334455667788
    stepsTo s (s |> withBytes 0x8000 [0x88, 0x77, 0x66, 0x55, 0x44, 0x33, 0x22, 0x11]
        |> withPc 0x1004) (.next) = true := by decide +kernel

/-- LS-15: `sd a2, 0(a1)`. -/
theorem test_step_ls_15 :
    let s := launch (w32 0x00C5B023) |>.setX 11 0x0000000000001800 |>.setX 12 0x0000000000000001
    stepsTo s s (.halted (.memoryFault .store 0x0000000000001800)) = true := by decide +kernel

/-- LS-18: `c.lw a0, 4(a1)`. -/
theorem test_step_ls_18 :
    let s := launch (w16 0x41C8) |>.setX 11 0x0000000000008000 |> withMem 0x8004 4 0xFFFFFFFE
    stepsTo s (s |>.setX 10 0xFFFFFFFFFFFFFFFE |> withPc 0x1002) (.next) = true := by decide +kernel

/-- LS-19: `c.ld s0, 8(s1)`. -/
theorem test_step_ls_19 :
    let s := launch (w16 0x6480) |>.setX 9 0x0000000000008000 |> withMem 0x8008 8 0xCAFEF00D12345678
    stepsTo s (s |>.setX 8 0xCAFEF00D12345678 |> withPc 0x1002) (.next) = true := by decide +kernel

/-- LS-20: `c.sd a0, 248(a1)`. -/
theorem test_step_ls_20 :
    let s := launch (w16 0xFDE8) |>.setX 11 0x0000000000008000 |>.setX 10 0x0000000000000055
    stepsTo s (s |> withBytes 0x80F8 [0x55, 0x00, 0x00, 0x00, 0x00, 0x00, 0x00, 0x00]
        |> withPc 0x1002) (.next) = true := by decide +kernel

/-- LS-21: `c.sdsp ra, 8(sp)`. -/
theorem test_step_ls_21 :
    let s := launch (w16 0xE406) |>.setX 2 0x0000000000008100 |>.setX 1 0x0000000000001234
    stepsTo s (s |> withBytes 0x8108 [0x34, 0x12, 0x00, 0x00, 0x00, 0x00, 0x00, 0x00]
        |> withPc 0x1002) (.next) = true := by decide +kernel

/-- LS-22: `c.ldsp ra, 8(sp)`. -/
theorem test_step_ls_22 :
    let s := launch (w16 0x60A2) |>.setX 2 0x0000000000008000 |> withMem 0x8008 8 0x0000000000001042
    stepsTo s (s |>.setX 1 0x0000000000001042 |> withPc 0x1002) (.next) = true := by decide +kernel

/-- LS-23: `c.swsp a0, 252(sp)`. -/
theorem test_step_ls_23 :
    let s := launch (w16 0xDFAA) |>.setX 2 0x0000000000008000 |>.setX 10 0x00000000AABBCCDD
    stepsTo s (s |> withBytes 0x80FC [0xDD, 0xCC, 0xBB, 0xAA] |> withPc 0x1002) (.next) = true := by decide +kernel

/-- LS-24: `c.lwsp a0, 0(sp)`. -/
theorem test_step_ls_24 :
    let s := launch (w16 0x4502) |>.setX 2 0x0000000000008000 |> withMem 0x8000 4 0x80000000
    stepsTo s (s |>.setX 10 0xFFFFFFFF80000000 |> withPc 0x1002) (.next) = true := by decide +kernel

/-- CTL-1: `jal ra, +16`. -/
theorem test_step_ctl_1 :
    let s := launch (w32 0x010000EF)
    stepsTo s (s |>.setX 1 0x0000000000001004 |> withPc 0x1010) (.continueAt 0x0000000000001010) = true := by decide +kernel

/-- CTL-2: `jal x0, -4098`. -/
theorem test_step_ctl_2 :
    let s := launch (w32 0xFFFFE06F)
    stepsTo s (s |> withPc 0xFFFFFFFFFFFFFFFE) (.continueAt 0xFFFFFFFFFFFFFFFE) = true := by decide +kernel

/-- CTL-3: `jalr ra, 1(a1)`. -/
theorem test_step_ctl_3 :
    let s := launch (w32 0x001580E7) |>.setX 11 0x0000000000002000
    stepsTo s (s |>.setX 1 0x0000000000001004 |> withPc 0x2000) (.continueAt 0x0000000000002000) = true := by decide +kernel

/-- CTL-5: `jalr x0, -1(a1)`. -/
theorem test_step_ctl_5 :
    let s := launch (w32 0xFFF58067) |>.setX 11 0x0000000000002002
    stepsTo s (s |> withPc 0x2000) (.continueAt 0x0000000000002000) = true := by decide +kernel

/-- CTL-6: `beq a0, a1, +8 (taken)`. -/
theorem test_step_ctl_6 :
    let s := launch (w32 0x00B50463) |>.setX 10 0x0000000000000003 |>.setX 11 0x0000000000000003
    stepsTo s (s |> withPc 0x1008) (.continueAt 0x0000000000001008) = true := by decide +kernel

/-- CTL-7: `beq a0, a1, +8 (not taken)`. -/
theorem test_step_ctl_7 :
    let s := launch (w32 0x00B50463) |>.setX 10 0x0000000000000003 |>.setX 11 0x0000000000000004
    stepsTo s (s |> withPc 0x1004) (.next) = true := by decide +kernel

/-- CTL-8: `bne a0, a1, -2`. -/
theorem test_step_ctl_8 :
    let s := launch (w32 0xFEB51FE3) |>.setX 10 0x0000000000000003 |>.setX 11 0x0000000000000004
    stepsTo s (s |> withPc 0x0FFE) (.continueAt 0x0000000000000FFE) = true := by decide +kernel

/-- CTL-9: `blt a0, a1, +12`. -/
theorem test_step_ctl_9 :
    let s := launch (w32 0x00B54663) |>.setX 10 0xFFFFFFFFFFFFFFFF |>.setX 11 0x0000000000000001
    stepsTo s (s |> withPc 0x100C) (.continueAt 0x000000000000100C) = true := by decide +kernel

/-- CTL-13: `blt a0, a1, +4094`. -/
theorem test_step_ctl_13 :
    let s := launch (w32 0x7EB54FE3) |>.setX 10 0x0000000000000000 |>.setX 11 0x0000000000000001
    stepsTo s (s |> withPc 0x1FFE) (.continueAt 0x0000000000001FFE) = true := by decide +kernel

/-- CTL-10: `bltu a0, a1, +12`. -/
theorem test_step_ctl_10 :
    let s := launch (w32 0x00B56663) |>.setX 10 0xFFFFFFFFFFFFFFFF |>.setX 11 0x0000000000000001
    stepsTo s (s |> withPc 0x1004) (.next) = true := by decide +kernel

/-- CTL-11: `bge a0, a1, +12`. -/
theorem test_step_ctl_11 :
    let s := launch (w32 0x00B55663) |>.setX 10 0x0000000000000001 |>.setX 11 0x0000000000000001
    stepsTo s (s |> withPc 0x100C) (.continueAt 0x000000000000100C) = true := by decide +kernel

/-- CTL-12: `bgeu a0, a1, +12`. -/
theorem test_step_ctl_12 :
    let s := launch (w32 0x00B57663) |>.setX 10 0xFFFFFFFFFFFFFFFF |>.setX 11 0x0000000000000001
    stepsTo s (s |> withPc 0x100C) (.continueAt 0x000000000000100C) = true := by decide +kernel

/-- CTL-14: `c.j -2048`. -/
theorem test_step_ctl_14 :
    let s := launch (w16 0xB001)
    stepsTo s (s |> withPc 0x0800) (.continueAt 0x0000000000000800) = true := by decide +kernel

/-- CTL-15: `c.jr ra`. -/
theorem test_step_ctl_15 :
    let s := launch (w16 0x8082) |>.setX 1 0x0000000000001100
    stepsTo s (s |> withPc 0x1100) (.continueAt 0x0000000000001100) = true := by decide +kernel

/-- CTL-16: `c.jalr a5`. -/
theorem test_step_ctl_16 :
    let s := launch (w16 0x9782) |>.setX 15 0x0000000000001200
    stepsTo s (s |>.setX 1 0x0000000000001002 |> withPc 0x1200) (.continueAt 0x0000000000001200) = true := by decide +kernel

/-- CTL-17: `c.beqz a0, +254`. -/
theorem test_step_ctl_17 :
    let s := launch (w16 0xCD7D) |>.setX 10 0x0000000000000000
    stepsTo s (s |> withPc 0x10FE) (.continueAt 0x00000000000010FE) = true := by decide +kernel

/-- CTL-18: `c.bnez a0, -256`. -/
theorem test_step_ctl_18 :
    let s := launch (w16 0xF101) |>.setX 10 0x0000000000000000
    stepsTo s (s |> withPc 0x1002) (.next) = true := by decide +kernel

/-- UI-1: `lui a0, 0x80000`. -/
theorem test_step_ui_1 :
    let s := launch (w32 0x80000537)
    stepsTo s (s |>.setX 10 0xFFFFFFFF80000000 |> withPc 0x1004) (.next) = true := by decide +kernel

/-- UI-3: `auipc a0, 0`. -/
theorem test_step_ui_3 :
    let s := launch (w32 0x00000517)
    stepsTo s (s |>.setX 10 0x0000000000001000 |> withPc 0x1004) (.next) = true := by decide +kernel

/-- UI-5: `c.lui a0, 0x1F`. -/
theorem test_step_ui_5 :
    let s := launch (w16 0x657D)
    stepsTo s (s |>.setX 10 0x000000000001F000 |> withPc 0x1002) (.next) = true := by decide +kernel

/-- FP-1: `flw fa0, 0(a1)`. -/
theorem test_step_fp_1 :
    let s := launch (w32 0x0005A507) |>.setX 11 0x0000000000008000 |> withMem 0x8000 4 0x3F800000
    stepsTo s (s |>.setF 10 0xFFFFFFFF3F800000 |> withPc 0x1004) (.next) = true := by decide +kernel

/-- FP-5: `flw fa0, 0(a1)`. -/
theorem test_step_fp_5 :
    let s := launch (w32 0x0005A507) |>.setX 11 0x0000000000000100
    stepsTo s s (.halted (.memoryFault .load 0x0000000000000100)) = true := by decide +kernel

/-- FP-2: `fld fa0, 8(a1)`. -/
theorem test_step_fp_2 :
    let s := launch (w32 0x0085B507) |>.setX 11 0x0000000000008000 |> withMem 0x8008 8 0x7FF0000000000001
    stepsTo s (s |>.setF 10 0x7FF0000000000001 |> withPc 0x1004) (.next) = true := by decide +kernel

/-- FP-3: `fsw fa0, 0(a1)`. -/
theorem test_step_fp_3 :
    let s := launch (w32 0x00A5A027) |>.setX 11 0x0000000000008000 |>.setF 10 0x123456783F800000
    stepsTo s (s |> withBytes 0x8000 [0x00, 0x00, 0x80, 0x3F] |> withPc 0x1004) (.next) = true := by decide +kernel

/-- FP-4: `fsd fa0, 0(a1)`. -/
theorem test_step_fp_4 :
    let s := launch (w32 0x00A5B027) |>.setX 11 0x0000000000008000 |>.setF 10 0x400921FB54442D18
    stepsTo s (s |> withBytes 0x8000 [0x18, 0x2D, 0x44, 0x54, 0xFB, 0x21, 0x09, 0x40]
        |> withPc 0x1004) (.next) = true := by decide +kernel

/-- FP-6: `fmv.x.w a0, fa1`. -/
theorem test_step_fp_6 :
    let s := launch (w32 0xE0058553) |>.setF 11 0xFFFFFFFFBF800000
    stepsTo s (s |>.setX 10 0xFFFFFFFFBF800000 |> withPc 0x1004) (.next) = true := by decide +kernel

/-- FP-7: `fmv.x.w a0, fa1`. -/
theorem test_step_fp_7 :
    let s := launch (w32 0xE0058553) |>.setF 11 0x000000007F800000
    stepsTo s (s |>.setX 10 0x000000007F800000 |> withPc 0x1004) (.next) = true := by decide +kernel

/-- FP-8: `fmv.w.x fa0, a1`. -/
theorem test_step_fp_8 :
    let s := launch (w32 0xF0058553) |>.setX 11 0x1234567840490FDB
    stepsTo s (s |>.setF 10 0xFFFFFFFF40490FDB |> withPc 0x1004) (.next) = true := by decide +kernel

/-- FP-9: `fmv.x.d a0, fa1`. -/
theorem test_step_fp_9 :
    let s := launch (w32 0xE2058553) |>.setF 11 0xFFF8000000000001
    stepsTo s (s |>.setX 10 0xFFF8000000000001 |> withPc 0x1004) (.next) = true := by decide +kernel

/-- FP-10: `fmv.d.x fa0, a1`. -/
theorem test_step_fp_10 :
    let s := launch (w32 0xF2058553) |>.setX 11 0x3FF0000000000000
    stepsTo s (s |>.setF 10 0x3FF0000000000000 |> withPc 0x1004) (.next) = true := by decide +kernel

/-- FP-12: `fcvt.s.d fa0, fa1, rtz`. -/
theorem test_step_fp_12 :
    let s := launch (w32 0x40159553) |>.setF 11 0x3FB999999999999A
    stepsTo s (s |>.setF 10 0xFFFFFFFF3DCCCCCC |> withPc 0x1004) (.next) = true := by decide +kernel

/-- FP-21: `fcvt.s.d fa0, fa1, rm=101`. -/
theorem test_step_fp_21 :
    let s := launch (w32 0x4015D553) |>.setF 11 0x3FF0000000000000
    stepsTo s s (.halted (.reservedInstruction 0x4015D553 4)) = true := by decide +kernel

/-- FP-23: `fcvt.d.s fa0, fa1`. -/
theorem test_step_fp_23 :
    let s := launch (w32 0x4205F553) |>.setF 11 0x000000003F800000
    stepsTo s (s |>.setF 10 0x7FF8000000000000 |> withPc 0x1004) (.next) = true := by decide +kernel

/-- FP-24: `fcvt.d.s fa0, fa1`. -/
theorem test_step_fp_24 :
    let s := launch (w32 0x4205F553) |>.setF 11 0xFFFFFFFF00000001
    stepsTo s (s |>.setF 10 0x36A0000000000000 |> withPc 0x1004) (.next) = true := by decide +kernel

/-- FP-26: `fadd.s fa0, fa1, fa2`. -/
theorem test_step_fp_26 :
    let s := launch (w32 0x00C5F553) |>.setF 11 0xFFFFFFFF3F800000 |>.setF 12 0xFFFFFFFF3F800000
    stepsTo s s (.halted (.unimplemented (.faddS 10 11 12 7))) = true := by decide +kernel

/-- FP-27: `fadd.d fa0, fa1, fa2, rm=101`. -/
theorem test_step_fp_27 :
    let s := launch (w32 0x02C5D553)
    stepsTo s s (.halted (.unimplemented (.faddD 10 11 12 5))) = true := by decide +kernel

/-- FP-28: `fsgnj.s fa0, fa1, fa1 (fmv.s)`. -/
theorem test_step_fp_28 :
    let s := launch (w32 0x20B58553)
    stepsTo s s (.halted (.unimplemented (.fsgnjS 10 11 11))) = true := by decide +kernel

/-- FP-29: `fcvt.w.s a0, fa1`. -/
theorem test_step_fp_29 :
    let s := launch (w32 0xC0059553)
    stepsTo s s (.halted (.unimplemented (.fcvtWS 10 11 1))) = true := by decide +kernel

/-- FP-30: `fmadd.d fa0, fa1, fa2, fa3`. -/
theorem test_step_fp_30 :
    let s := launch (w32 0x6A05F543)
    stepsTo s s (.halted (.unimplemented (.fmaddD 10 11 0 13 7))) = true := by decide +kernel

/-- FP-31: `c.fld fa0, 8(a1)`. -/
theorem test_step_fp_31 :
    let s := launch (w16 0x2588) |>.setX 11 0x0000000000008000 |> withMem 0x8008 8 0x3FF0000000000000
    stepsTo s (s |>.setF 10 0x3FF0000000000000 |> withPc 0x1002) (.next) = true := by decide +kernel

/-- FP-32: `c.fsdsp fs0, 16(sp)`. -/
theorem test_step_fp_32 :
    let s := launch (w16 0xA822) |>.setX 2 0x0000000000008000 |>.setF 8 0xC000000000000000
    stepsTo s (s |> withBytes 0x8010 [0x00, 0x00, 0x00, 0x00, 0x00, 0x00, 0x00, 0xC0]
        |> withPc 0x1002) (.next) = true := by decide +kernel

/-- SYS-1: `fence rw, rw`. -/
theorem test_step_sys_1 :
    let s := launch (w32 0x0330000F)
    stepsTo s (s |> withPc 0x1004) (.next) = true := by decide +kernel

/-- SYS-2: `fence (fm=1000, tso)`. -/
theorem test_step_sys_2 :
    let s := launch (w32 0x8330000F)
    stepsTo s (s |> withPc 0x1004) (.next) = true := by decide +kernel

/-- SYS-3: `ecall (a7 = 93)`. -/
theorem test_step_sys_3 :
    let s := launch (w32 0x00000073) |>.setX 17 0x000000000000005D |>.setX 10 0x000000000000007B
    stepsTo s s (.halted (.exit 123 s)) = true := by decide +kernel

/-- SYS-6: `ecall (clears resv)`. -/
theorem test_step_sys_6 :
    let s := launch (w32 0x00000073) |>.setX 17 0x0000000000000001 |> withResv (some (0x8000, .w8))
    stepsTo s (s |>.setX 10 0xFFFFFFFFFFFFFFDA |> withResv none |> withPc 0x1004) (.next) = true := by decide +kernel

/-- SYS-7: `ebreak`. -/
theorem test_step_sys_7 :
    let s := launch (w32 0x00100073) |>.setX 10 0x0000000000000001
    stepsTo s s (.halted (.breakpoint)) = true := by decide +kernel

/-- SYS-8: `c.ebreak`. -/
theorem test_step_sys_8 :
    let s := launch (w16 0x9002)
    stepsTo s s (.halted (.breakpoint)) = true := by decide +kernel

/-- AMO-8: `amoadd.w a0, a2, (a1)`. -/
theorem test_step_amo_8 :
    let s := launch (w32 0x00C5A52F) |>.setX 11 0x0000000000008000 |>.setX 12 0x0000000000000001
        |> withMem 0x8000 4 0x7FFFFFFF |> withAtomics [.amoaddW]
    stepsTo s (s |>.setX 10 0x000000007FFFFFFF |> withBytes 0x8000 [0x00, 0x00, 0x00, 0x80]
        |> withPc 0x1004) (.next) = true := by decide +kernel

/-- AMO-17: `amoadd.w a0, a2, (a1) misaligned`. -/
theorem test_step_amo_17 :
    let s := launch (w32 0x00C5A52F) |>.setX 11 0x0000000000008002 |>.setX 12 0x0000000000000001
        |> withAtomics [.amoaddW]
    stepsTo s s (.halted (.unimplemented (.amoaddW 10 11 12 0 0))) = true := by decide +kernel

/-- AMO-2: `lr.w a0, (a1)`. -/
theorem test_step_amo_2 :
    let s := launch (w32 0x1005A52F) |>.setX 11 0x0000000000008000 |> withMem 0x8000 4 0x80000000 |> withAtomics [.lrW]
    stepsTo s (s |>.setX 10 0xFFFFFFFF80000000 |> withResv (some (0x8000, .w4))
        |> withPc 0x1004) (.next) = true := by decide +kernel

/-- AMO-3: `sc.w a0, a2, (a1)`. -/
theorem test_step_amo_3 :
    let s := launch (w32 0x18C5A52F) |>.setX 10 0x0000000000000005 |>.setX 11 0x0000000000008000
        |>.setX 12 0x0000000000000007 |> withAtomics [.scW] |> withResv (some (0x8000, .w4))
    stepsTo s (s |>.setX 10 0x0000000000000000 |> withBytes 0x8000 [0x07, 0x00, 0x00, 0x00] |> withResv none
        |> withPc 0x1004) (.next) = true := by decide +kernel

/-- AMO-5: `sc.w a0, a2, (a1)`. -/
theorem test_step_amo_5 :
    let s := launch (w32 0x18C5A52F) |>.setX 11 0x0000000000008000 |>.setX 12 0x0000000000000007
        |> withAtomics [.scW] |> withResv (some (0x8000, .w8))
    stepsTo s (s |>.setX 10 0x0000000000000001 |> withResv none |> withPc 0x1004) (.next) = true := by decide +kernel

/-- AMO-6: `sc.d a0, a2, (a1)`. -/
theorem test_step_amo_6 :
    let s := launch (w32 0x18C5B52F) |>.setX 11 0x0000000000008000 |>.setX 12 0x0000000000000007
        |> withAtomics [.scD] |> withResv (some (0x8008, .w8))
    stepsTo s (s |>.setX 10 0x0000000000000001 |> withResv none |> withPc 0x1004) (.next) = true := by decide +kernel

/-- AMO-7: `amoswap.d a0, a2, (a1)`. -/
theorem test_step_amo_7 :
    let s := launch (w32 0x08C5B52F) |>.setX 11 0x0000000000008000 |>.setX 12 0x00000000000000AA
        |> withMem 0x8000 8 0x1122334455667788 |> withAtomics [.amoswapD]
    stepsTo s (s |>.setX 10 0x1122334455667788 |> withBytes 0x8000 [0xAA, 0x00, 0x00, 0x00, 0x00, 0x00, 0x00, 0x00]
        |> withPc 0x1004) (.next) = true := by decide +kernel

/-- AMO-9: `amoxor.w a0, a2, (a1)`. -/
theorem test_step_amo_9 :
    let s := launch (w32 0x20C5A52F) |>.setX 11 0x0000000000008000 |>.setX 12 0x00000000FFFFFFFF
        |> withMem 0x8000 4 0x0F0F0F0F |> withAtomics [.amoxorW]
    stepsTo s (s |>.setX 10 0x000000000F0F0F0F |> withBytes 0x8000 [0xF0, 0xF0, 0xF0, 0xF0]
        |> withPc 0x1004) (.next) = true := by decide +kernel

/-- AMO-10: `amoand.d a0, a2, (a1)`. -/
theorem test_step_amo_10 :
    let s := launch (w32 0x60C5B52F) |>.setX 11 0x0000000000008000 |>.setX 12 0x00000000000000FF
        |> withMem 0x8000 8 0x0000000000001234 |> withAtomics [.amoandD]
    stepsTo s (s |>.setX 10 0x0000000000001234 |> withBytes 0x8000 [0x34, 0x00, 0x00, 0x00, 0x00, 0x00, 0x00, 0x00]
        |> withPc 0x1004) (.next) = true := by decide +kernel

/-- AMO-11: `amoor.w a0, a2, (a1)`. -/
theorem test_step_amo_11 :
    let s := launch (w32 0x40C5A52F) |>.setX 11 0x0000000000008000 |>.setX 12 0x0000000000000100
        |> withMem 0x8000 4 0x00000001 |> withAtomics [.amoorW]
    stepsTo s (s |>.setX 10 0x0000000000000001 |> withBytes 0x8000 [0x01, 0x01, 0x00, 0x00]
        |> withPc 0x1004) (.next) = true := by decide +kernel

/-- AMO-12: `amomin.w a0, a2, (a1)`. -/
theorem test_step_amo_12 :
    let s := launch (w32 0x80C5A52F) |>.setX 11 0x0000000000008000 |>.setX 12 0x0000000000000001
        |> withMem 0x8000 4 0xFFFFFFFF |> withAtomics [.amominW]
    stepsTo s (s |>.setX 10 0xFFFFFFFFFFFFFFFF |> withBytes 0x8000 [0xFF, 0xFF, 0xFF, 0xFF]
        |> withPc 0x1004) (.next) = true := by decide +kernel

/-- AMO-13: `amominu.w a0, a2, (a1)`. -/
theorem test_step_amo_13 :
    let s := launch (w32 0xC0C5A52F) |>.setX 11 0x0000000000008000 |>.setX 12 0x0000000000000001
        |> withMem 0x8000 4 0xFFFFFFFF |> withAtomics [.amominuW]
    stepsTo s (s |>.setX 10 0xFFFFFFFFFFFFFFFF |> withBytes 0x8000 [0x01, 0x00, 0x00, 0x00]
        |> withPc 0x1004) (.next) = true := by decide +kernel

/-- AMO-14: `amomax.d a0, a2, (a1)`. -/
theorem test_step_amo_14 :
    let s := launch (w32 0xA0C5B52F) |>.setX 11 0x0000000000008000 |>.setX 12 0xFFFFFFFFFFFFFFFB
        |> withMem 0x8000 8 0xFFFFFFFFFFFFFFF7 |> withAtomics [.amomaxD]
    stepsTo s (s |>.setX 10 0xFFFFFFFFFFFFFFF7 |> withBytes 0x8000 [0xFB, 0xFF, 0xFF, 0xFF, 0xFF, 0xFF, 0xFF, 0xFF]
        |> withPc 0x1004) (.next) = true := by decide +kernel

/-- AMO-15: `amomaxu.w a0, a2, (a1)`. -/
theorem test_step_amo_15 :
    let s := launch (w32 0xE0C5A52F) |>.setX 11 0x0000000000008000 |>.setX 12 0x0000000080000000
        |> withMem 0x8000 4 0x7FFFFFFF |> withAtomics [.amomaxuW]
    stepsTo s (s |>.setX 10 0x000000007FFFFFFF |> withBytes 0x8000 [0x00, 0x00, 0x00, 0x80]
        |> withPc 0x1004) (.next) = true := by decide +kernel

/-- AMO-16: `amominu.d a0, a2, (a1)`. -/
theorem test_step_amo_16 :
    let s := launch (w32 0xC0C5B52F) |>.setX 11 0x0000000000008000 |>.setX 12 0xFFFFFFFFFFFFFFFF
        |> withMem 0x8000 8 0x0000000000000003 |> withAtomics [.amominuD]
    stepsTo s (s |>.setX 10 0x0000000000000003 |> withBytes 0x8000 [0x03, 0x00, 0x00, 0x00, 0x00, 0x00, 0x00, 0x00]
        |> withPc 0x1004) (.next) = true := by decide +kernel

/-- AMO-18: `lr.d a0, (a1) unmapped`. -/
theorem test_step_amo_18 :
    let s := launch (w32 0x1005B52F) |>.setX 11 0x0000000000000100 |> withAtomics [.lrD]
    stepsTo s s (.halted (.memoryFault .load 0x0000000000000100)) = true := by decide +kernel

/-- AMO-20: `lr.d a0, (a1) on read-only`. -/
theorem test_step_amo_20 :
    let s := launch (w32 0x1005B52F) |>.setX 10 0x0000000000000005 |>.setX 11 0x0000000000001800 |> withAtomics [.lrD]
    stepsTo s (s |>.setX 10 0x0000000000000000 |> withResv (some (0x1800, .w8))
        |> withPc 0x1004) (.next) = true := by decide +kernel

/-- AMO-19: `amoor.d a0, a2, (a1) on read-only`. -/
theorem test_step_amo_19 :
    let s := launch (w32 0x40C5B52F) |>.setX 11 0x0000000000001800 |>.setX 12 0x0000000000000001
        |> withAtomics [.amoorD]
    stepsTo s s (.halted (.memoryFault .store 0x0000000000001800)) = true := by decide +kernel

/-- AMO-21: `amoadd.d.aqrl a0, a2, (a1)`. -/
theorem test_step_amo_21 :
    let s := launch (w32 0x06C5B52F) |>.setX 11 0x0000000000008000 |>.setX 12 0x0000000000000002
        |> withMem 0x8000 8 0x0000000000000028 |> withAtomics [.amoaddD]
    stepsTo s (s |>.setX 10 0x0000000000000028 |> withBytes 0x8000 [0x2A, 0x00, 0x00, 0x00, 0x00, 0x00, 0x00, 0x00]
        |> withPc 0x1004) (.next) = true := by decide +kernel

/-! ### Fetch, decode and check order (95_test_vectors.md sections 2.12 and 2.15) -/

/-- A read-only region of 16 bytes at 0x1000 holding these bytes at an offset, the pc at them. -/
def codeAt (off : Nat) (code : List Byte) : State :=
  { State.reset with
    pc := BitVec.ofNat 64 (0x1000 + off)
    regions := [⟨0x1000, 0x10, false, false⟩]
    mem := Memory.setBytes [] (0x1000 + off) code }

/-- Two adjacent regions of two bytes, holding the halves of one instruction. -/
def splitCode : State :=
  { State.reset with
    pc := 0x1000
    regions := [⟨0x1000, 2, false, false⟩, ⟨0x1002, 2, false, false⟩]
    mem := Memory.setBytes [] 0x1000 [0x13, 0x05, 0xB0, 0x07] }

/-- STEP-1: the pc in no region. -/
theorem test_fetch_unmapped : stepsTo (withPc 0x5000 (codeAt 0 [])) (withPc 0x5000 (codeAt 0 []))
    (.halted (.memoryFault .load 0x5000)) = true := by decide +kernel

/-- STEP-2: a 4-byte instruction whose last 2 bytes are outside the region. -/
theorem test_fetch_cut : stepsTo (codeAt 14 [0x13, 0x05]) (codeAt 14 [0x13, 0x05])
    (.halted (.memoryFault .load 0x100E)) = true := by decide +kernel

/-- STEP-3: a 2-byte instruction in the last 2 bytes of the region. -/
theorem test_fetch_last_halfword :
    stepsTo (codeAt 14 [0x01, 0x11]) ((codeAt 14 [0x01, 0x11]).setX 2 0xFFFFFFFFFFFFFFE0
        |> withPc 0x1010) .next = true := by
  decide +kernel

/-- STEP-4: no split across adjacent regions. -/
theorem test_fetch_split : stepsTo splitCode splitCode (.halted (.memoryFault .load 0x1000)) = true := by decide +kernel

/-- STEP-5: zeroed memory at the pc. -/
theorem test_fetch_zero : stepsTo (launch []) (launch []) (.halted (.reservedInstruction 0 2)) = true := by decide +kernel

/-- STEP-6: `csrr a0, cycle`. -/
theorem test_fetch_csr : stepsTo (launch (w32 0xC0002573)) (launch (w32 0xC0002573))
    (.halted (.reservedInstruction 0xC0002573 4)) = true := by decide +kernel

/-- STEP-7: the prefix of a longer instruction in the last 4 bytes of the region. -/
theorem test_fetch_prefix48 : stepsTo (codeAt 12 (w32 0x0000001F)) (codeAt 12 (w32 0x0000001F))
    (.halted (.reservedInstruction 0x0000001F 4)) = true := by decide +kernel

/-- ORD-3: `fadd.s` with a reserved rm is Unimplemented, not ReservedInstruction. -/
theorem test_order_fadd_reserved_rm : stepsTo (launch (w32 0x00C5D553)) (launch (w32 0x00C5D553))
    (.halted (.unimplemented (.faddS 10 11 12 5))) = true := by decide +kernel

/-- ORD-7: an AMO on read-only memory reads, then faults as a store. -/
theorem test_order_amo_read_only :
    let s := launch (w32 0x00C5A52F) |>.setX 11 0x1000 |> withAtomics [.amoaddW]
    stepsTo s s (.halted (.memoryFault .store 0x1000)) = true := by decide +kernel

/-- ORD-8: SC without a reservation fails before any store check. -/
theorem test_order_sc_read_only :
    let s := launch (w32 0x18C5A52F) |>.setX 11 0x1000 |> withAtomics [.scW]
    stepsTo s (s |>.setX 10 1 |> withPc 0x1004) .next = true := by decide +kernel

/-! ### The MMU operations (95_test_vectors.md section 2.13) and admission (section 2.14) -/

/-- The table T0: a read-only borrowed region and, next to it, a writable owned one. -/
def tableT0 : State := { State.reset with regions := [⟨0x10000, 0x1000, false, false⟩, ⟨0x11000, 0x2000, true, true⟩] }

/-- T0 with region C at the top of the address space. -/
def tableT0C : State :=
  { State.reset with
    regions := [⟨0x10000, 0x1000, false, false⟩, ⟨0x11000, 0x2000, true, true⟩, ⟨0xFFFFFFFFFFFFF000, 0x1000, true,
      true⟩] }

/-- The base and the region table an operation answers, or the error. -/
def answer (r : Except ResourceError (Word × State)) : Option (Word × List Region) :=
  match r with
  | .ok (b, t) => some (b, t.regions)
  | .error _ => none

/-- MMU-1, MMU-6 to MMU-9: no region for length 0, nor at an illegal draw or without one. -/
theorem test_allocate_errors :
    answer (allocate 0 false (some 0x20000) tableT0) = none ∧ answer (allocate 1 false (some 0x12000) tableT0) = none ∧
    answer (allocate 1 false (some 0x20800) tableT0) = none ∧
    answer (allocate 0x2000 false (some 0xFFFFFFFFFFFFF000) tableT0) = none ∧ answer (allocate 1 false none tableT0) = none := by
  decide

/-- MMU-2 to MMU-4: the length is rounded up to whole pages, an exact multiple not further. -/
theorem test_allocate_rounds :
    answer (allocate 1 false (some 0x20000) tableT0) = some (0x20000, tableT0.regions ++ [⟨0x20000, 0x1000, true,
      true⟩]) ∧
    answer (allocate 0x1000 true (some 0x20000) tableT0) = some (0x20000, tableT0.regions ++ [⟨0x20000, 0x1000, true,
      true⟩]) ∧
    answer (allocate 0x1001 false (some 0x30000) tableT0) = some (0x30000, tableT0.regions ++ [⟨0x30000, 0x2000,
      true, true⟩]) := by
  decide

/-- MMU-5: a larger host page size. -/
theorem test_allocate_host_page :
    answer (allocate 1 false (some 0x40000) { tableT0 with cfg := { tableT0.cfg with hostPageSize := 16384 } })
      = some (0x40000, tableT0.regions ++ [⟨0x40000, 0x4000, true, true⟩]) := by decide

/-- MMU-10 to MMU-14: every region the range meets goes, whole; touching is not meeting. -/
theorem test_deallocate :
    (deallocate 0x11800 0x10 tableT0).regions = [⟨0x10000, 0x1000, false, false⟩] ∧
    (deallocate 0x10FFF 2 tableT0).regions = [] ∧ (deallocate 0x13000 0x1000 tableT0).regions = tableT0.regions ∧
    (deallocate 0x10000 0 tableT0).regions = tableT0.regions ∧ (deallocate 0 0x20000 tableT0).regions = [] := by decide

/-- MMU-15, MMU-16: the exact length, adjacent to another region or not. -/
theorem test_register :
    answer (registerHostMemory 0x40000 false (List.replicate 0x100 7) tableT0)
      = some (0x40000, tableT0.regions ++ [⟨0x40000, 0x100, false, false⟩]) ∧
    answer (registerHostMemory 0x13000 true (List.replicate 0x10 7) tableT0)
      = some (0x13000, tableT0.regions ++ [⟨0x13000, 0x10, true, false⟩]) := by decide +kernel

/-- MMU-17 to MMU-19: an overlap, no bytes, a range past the top. -/
theorem test_register_errors :
    answer (registerHostMemory 0x10F00 true (List.replicate 0x200 7) tableT0) = none ∧
    answer (registerHostMemory 0x40000 true [] tableT0) = none ∧
    answer (registerHostMemory 0xFFFFFFFFFFFFFF00 true (List.replicate 0x200 7) tableT0) = none := by decide +kernel

/-- MMU-20, MMU-21. -/
theorem test_translate :
    tableT0.translate 0x11FFF = some (⟨0x11000, 0x2000, true, true⟩,
      0xFFF) ∧ tableT0.translate 0x13000 = none := by decide

/-- ACC-1 to ACC-10, as the two admission checks. -/
theorem test_admission :
    tableT0C.readable 0x10FF8 8 = true ∧ tableT0C.readable 0x10FFC 8 = false ∧ tableT0C.readable 0x12FFF 2 = false ∧
    tableT0C.writable 0x10000 1 = false ∧ tableT0C.writable 0x11000 8 = true ∧ tableT0C.writable 0x12FFC 8 = false ∧
    tableT0C.readable 0xFFFFFFFFFFFFFFFF 1 = true ∧ tableT0C.readable 0xFFFFFFFFFFFFFFFF 2 = false ∧
    tableT0C.readable 0x11001 4 = true ∧ tableT0C.readable 0 1 = false := by decide

/-- The host's word of ADDI, placed for the next step, runs as the first instruction after reset. -/
theorem test_withFetchWord :
    let s := State.reset.withFetchWord 32 0x07B00513
    stepsTo s (s |>.setX 10 123 |> withPc 4) .next = true := by decide +kernel

/-- W1 (section 1): `li a0, 123; li a7, 93; ecall` run from its entry ends with Exit(123). -/
theorem test_exit_program :
    (match run 3 0x10000 { State.reset with
        regions := [⟨0x10000, 12, false, false⟩]
        mem := Memory.setBytes [] 0x10000 (w32 0x07B00513 ++ w32 0x05D00893 ++ w32 0x00000073) } with
      | .ended (.exit 123 t) u => decide (t = u) && decide (t.pc = 0x10008)
      | _ => false) = true := by decide +kernel

/-- Reference codes of the outcomes (60_exceptions.md rule R1100). -/
theorem test_outcome_codes :
    [outcomeCode .next, outcomeCode (.continueAt 0), outcomeCode (.halted .breakpoint),
      outcomeCode (.halted (.reservedInstruction 0 2)), outcomeCode (.halted (.memoryFault .load 0)),
      outcomeCode (.halted (.exit 0 State.reset)), outcomeCode (.halted (.unimplemented .ecall))] = [0, 1, 2, 3, 4,
      5, 6] := by
  decide

/-! ### A witness for the hypotheses of every statement that has some,
      one per clause and at the boundary of its range -/

theorem readAdmitted {s : State} {a : Word} {n : Nat} (h : s.readable a n = true) : ReadAdmitted s a n :=
  State.readable_iff.1 h

theorem not_readAdmitted {s : State} {a : Word} {n : Nat} (h : s.readable a n = false) : ¬ReadAdmitted s a n := by
  intro c
  rw [State.readable_iff.2 c] at h
  cases h

theorem writeAdmitted {s : State} {a : Word} {n : Nat} (h : s.writable a n = true) : WriteAdmitted s a n :=
  State.writable_iff.1 h

theorem not_writeAdmitted {s : State} {a : Word} {n : Nat} (h : s.writable a n = false) : ¬WriteAdmitted s a n := by
  intro c
  rw [State.writable_iff.2 c] at h
  cases h

theorem step_next_of_continues {s : State} (h : continues s = true) : ∃ t, step s = .next t := by
  unfold continues at h
  cases hs : step s with
  | next t => exact ⟨t, rfl⟩
  | fault f => rw [hs] at h; cases h
  | refused r => rw [hs] at h; cases h

/-- x2 and x11 hold the first address past the writable data region. -/
def edge : State := launch [] |>.setX 2 0x9000 |>.setX 11 0x9000

/-- Every atomic is implemented and x11 holds this address. -/
def amoState (a : Word) : State := launch [] |>.setX 11 a |> withAtomics Config.allAtomics

/-- A launch state whose x17 is a syscall number and whose answers to come are l. -/
def callState (number : Word) (l : List SyscallAnswer) : State := launch [] |>.setX 17 number |> withSyscalls l

theorem test_witness_DecodeOfEncode :
    (Instr.addi 10 0 (-2048)).WellFormed ∧ (Instr.jal 1 0xFFFFE).WellFormed ∧
    (Instr.cLui 31 0xFFFFFFFFFFFE0000).WellFormed ∧ (Instr.cAddi4spn 15 1020).WellFormed := by
  decide

theorem test_witness_EncodeOfDecode :
    decodeFull 0x80000517 = .instr (.auipc 10 0xFFFFFFFF80000000) ∧ decodeHalf 0x557D = .instr (.cLi 10 (-1)) := by decide

theorem test_witness_LengthByLowBits :
    decode [0x13, 0x05, 0xB0, 0x07] = some (.instr (.addi 10 0 123), 4) ∧
    decode [0x01, 0x11] = some (.instr (.addi 2 2 (-32)), 2) ∧
    (0x1F : BitVec 32).toNat % 4 = 3 ∧ (0x1F : BitVec 32).toNat / 4 % 8 = 7 := by decide

theorem test_witness_SystemWordsInvalid :
    (0x00200073 : BitVec 32).toNat % 128 = 0x73 ∧ (0x00200073 : BitVec 32) ≠ 0x00000073 ∧
    (0x00200073 : BitVec 32) ≠ 0x00100073 := by decide

theorem test_witness_ZeroRegister : (1 : XReg) ≠ 0 ∧ (31 : XReg) ≠ 1 := by decide

theorem test_witness_LoadsComplete :
    ReadAdmitted edge (edge.getX 11 + (-1)) 1 ∧ ReadAdmitted edge (edge.getX 11 + (-2)) 2 ∧
    ReadAdmitted edge (edge.getX 11 + (-4)) 4 ∧ ReadAdmitted edge (edge.getX 11 + (-8)) 8 :=
  ⟨readAdmitted (by decide), readAdmitted (by decide), readAdmitted (by decide), readAdmitted (by decide)⟩

theorem test_witness_StoresComplete :
    edge.mem.wf = true ∧ WriteAdmitted edge (edge.getX 11 + (-1)) 1 ∧ WriteAdmitted edge (edge.getX 11 + (-2)) 2 ∧
    WriteAdmitted edge (edge.getX 11 + (-4)) 4 ∧ WriteAdmitted edge (edge.getX 11 + (-8)) 8 :=
  ⟨by decide, writeAdmitted (by decide), writeAdmitted (by decide), writeAdmitted (by decide),
      writeAdmitted (by decide)⟩

theorem test_witness_FloatLoadsAndStoresComplete :
    edge.mem.wf = true ∧ ReadAdmitted edge (edge.getX 11 + (-4)) 4 ∧ ReadAdmitted edge (edge.getX 11 + (-8)) 8 ∧
    WriteAdmitted edge (edge.getX 11 + (-4)) 4 ∧ WriteAdmitted edge (edge.getX 11 + (-8)) 8 :=
  ⟨by decide, readAdmitted (by decide), readAdmitted (by decide), writeAdmitted (by decide), writeAdmitted (by decide)⟩

theorem test_witness_LoadsFault :
    ¬ReadAdmitted edge (edge.getX 11 + 0) 1 ∧ ¬ReadAdmitted edge (edge.getX 11 + (-1)) 2 ∧
    ¬ReadAdmitted edge (edge.getX 11 + (-3)) 4 ∧ ¬ReadAdmitted edge (edge.getX 11 + (-7)) 8 ∧
    ¬ReadAdmitted edge (edge.getX 2 + (-3)) 4 ∧ ¬ReadAdmitted edge (edge.getX 2 + (-7)) 8 :=
  ⟨not_readAdmitted (by decide), not_readAdmitted (by decide), not_readAdmitted (by decide),
      not_readAdmitted (by decide),
    not_readAdmitted (by decide), not_readAdmitted (by decide)⟩

theorem test_witness_StoresFault :
    ¬WriteAdmitted edge (edge.getX 11 + 0) 1 ∧ ¬WriteAdmitted edge (edge.getX 11 + (-1)) 2 ∧
    ¬WriteAdmitted edge (edge.getX 11 + (-3)) 4 ∧ ¬WriteAdmitted edge (edge.getX 11 + (-0x7008)) 8 ∧
    ¬WriteAdmitted edge (edge.getX 2 + (-3)) 4 ∧ ¬WriteAdmitted edge (edge.getX 2 + (-7)) 8 :=
  ⟨not_writeAdmitted (by decide), not_writeAdmitted (by decide), not_writeAdmitted (by decide),
    not_writeAdmitted (by decide), not_writeAdmitted (by decide), not_writeAdmitted (by decide)⟩

theorem test_witness_WriteThenReadBack :
    edge.mem.wf = true ∧ 4 ≤ 8 ∧ 8 ≤ 8 ∧ ∃ t, memWrite edge 0x8FF8 8 0x8877665544332211 = .ok t :=
  ⟨by decide, by decide, by decide, _, memWrite_of_writable _ (by decide)⟩

theorem test_witness_CompressedLoadsComplete :
    ReadAdmitted edge (edge.getX 11 + (-4)) 4 ∧ ReadAdmitted edge (edge.getX 11 + (-8)) 8 ∧
    ReadAdmitted edge (edge.getX 2 + (-4)) 4 ∧ ReadAdmitted edge (edge.getX 2 + (-8)) 8 :=
  ⟨readAdmitted (by decide), readAdmitted (by decide), readAdmitted (by decide), readAdmitted (by decide)⟩

theorem test_witness_CompressedStoresComplete :
    edge.mem.wf = true ∧ WriteAdmitted edge (edge.getX 11 + (-4)) 4 ∧ WriteAdmitted edge (edge.getX 11 + (-8)) 8 ∧
    WriteAdmitted edge (edge.getX 2 + (-4)) 4 ∧ WriteAdmitted edge (edge.getX 2 + (-8)) 8 :=
  ⟨by decide, writeAdmitted (by decide), writeAdmitted (by decide), writeAdmitted (by decide),
      writeAdmitted (by decide)⟩

/-- A signalling NaN; minus infinity; 2^128, the least magnitude out of range. -/
theorem test_witness_NarrowSpecialValues :
    (7 : BitVec 3) ≠ 5 ∧ (7 : BitVec 3) ≠ 6 ∧
    exponentOf ((State.reset.setF 1 0x7FF0000000000001).getF 1) = 2047 ∧
    fractionOf ((State.reset.setF 1 0x7FF0000000000001).getF 1) ≠ 0 ∧
    exponentOf ((State.reset.setF 1 0xFFF0000000000000).getF 1) = 2047 ∧
    fractionOf ((State.reset.setF 1 0xFFF0000000000000).getF 1) = 0 ∧
    exponentOf ((State.reset.setF 1 0x47F0000000000000).getF 1) ≠ 2047 ∧
    scaled32 0x7F800000 ≤ scaled64 ((State.reset.setF 1 0x47F0000000000000).getF 1) := by decide +kernel

/-- The largest magnitude in range, the least subnormal, minus zero. -/
theorem test_witness_NarrowRoundsFiniteValues :
    (4 : BitVec 3) ≠ 5 ∧ (4 : BitVec 3) ≠ 6 ∧
    exponentOf ((State.reset.setF 1 0x47EFFFFFFFFFFFFF).getF 1) ≠ 2047 ∧
    scaled64 ((State.reset.setF 1 0x47EFFFFFFFFFFFFF).getF 1) < scaled32 0x7F800000 ∧
    exponentOf ((State.reset.setF 1 1).getF 1) ≠ 2047 ∧
    scaled64 ((State.reset.setF 1 1).getF 1) < scaled32 0x7F800000 ∧
    scaled64 ((State.reset.setF 1 0x8000000000000000).getF 1) < scaled32 0x7F800000 := by decide +kernel

/-- The finite, infinite, NaN and unboxed operands of WidenIsExact. -/
theorem test_witness_WidenIsExact :
    (0 : BitVec 3) ≠ 5 ∧ (0 : BitVec 3) ≠ 6 ∧
    (isBoxed 0xFFFFFFFF00000001 = true ∧ magnitudeOf 0xFFFFFFFF00000001 < 0x7F800000) ∧
    (isBoxed 0xFFFFFFFFFF800000 = true ∧ magnitudeOf 0xFFFFFFFFFF800000 = 0x7F800000) ∧
    (isBoxed 0xFFFFFFFF7F800001 = true ∧ ¬magnitudeOf 0xFFFFFFFF7F800001 ≤ 0x7F800000) ∧
    isBoxed 0xFFFFFFFE3F800000 = false := by decide +kernel

theorem test_witness_ReservedRoundingStops : ((5 : BitVec 3) = 5 ∨ (5 : BitVec 3) = 6) ∧ ((6 : BitVec 3) = 5 ∨ (6 : BitVec 3) = 6) := by
  decide

theorem test_witness_UnimplementedFloatStops :
    unimplementedFp (.faddS 10 11 12 7) = true ∧ fetchDecode (launch (w32 0x00C5F553)) = .ok (.faddS 10 11 12 7) :=
  ⟨by decide, rfl⟩

/-- A recognised call, one not recognised, and a call with no answer left. -/
theorem test_witness_SyscallReturns :
    (callState 92 [.recognised (.ret 7) [.poke 0x8000 1], .notRecognised []]).getX 17 ≠ 93 ∧
    (callState 92 [.recognised (.ret 7) [.poke 0x8000 1], .notRecognised []]).getX 17 ≠ 94 ∧
    (callState 92 [.recognised (.ret 7) [.poke 0x8000 1], .notRecognised []]).syscalls
      = .recognised (.ret 7) [.poke 0x8000 1] :: [.notRecognised []] ∧
    (callState 95 [.notRecognised [.poke 0x8000 1]]).getX 17 ≠ 93 ∧
    (callState 95 [.notRecognised [.poke 0x8000 1]]).getX 17 ≠ 94 ∧
    (callState 95 [.notRecognised [.poke 0x8000 1]]).syscalls = .notRecognised [.poke 0x8000 1] :: [] ∧
    (callState 92 []).getX 17 ≠ 93 ∧ (callState 92 []).getX 17 ≠ 94 ∧ (callState 92 []).syscalls = [] := by decide

/-- Both numbers with no answer and with one; for 94 an exit answered and another answer. -/
theorem test_witness_SyscallExits :
    (callState 93 []).getX 17 = 93 ∧ (callState 94 []).getX 17 = 94 ∧ (callState 94 []).syscalls = [] ∧
    (callState 93 [.notRecognised []]).getX 17 = 93 ∧ (callState 93 [.notRecognised []]).syscalls = .notRecognised [] :: [] ∧
    (callState 94 [.recognised (.exit 5) [.poke 0x8000 1]]).getX 17 = 94 ∧
    (callState 94 [.recognised (.exit 5) [.poke 0x8000 1]]).syscalls = .recognised (.exit 5) [.poke 0x8000 1] :: [] ∧
    (callState 94 [.recognised (.ret 5) []]).getX 17 = 94 ∧
    (callState 94 [.recognised (.ret 5) []]).syscalls = .recognised (.ret 5) [] :: [] ∧
    ∀ c ops, SyscallAnswer.recognised (.ret 5) [] ≠ .recognised (.exit c) ops :=
  ⟨by decide, by decide, by decide, by decide, by decide, by decide, by decide, by decide, by decide,
      fun _ _ h => by cases h⟩

/-- An exit answered to another number, and both ends of an ECALL. -/
theorem test_witness_SyscallKeepsRegisters :
    ((callState 1 [.recognised (.exit 7) [.deallocate 0x8000 1]]).getX 17 ≠ 93 ∧
      (callState 1 [.recognised (.exit 7) [.deallocate 0x8000 1]]).getX 17 ≠ 94 ∧
      (callState 1 [.recognised (.exit 7) [.deallocate 0x8000 1]]).syscalls
        = .recognised (.exit 7) [.deallocate 0x8000 1] :: []) ∧
    (∃ t, exec .ecall (callState 1 [.recognised (.ret 7) [.poke 0x8000 1]]) = .next t) ∧
    ∃ c t, exec .ecall (callState 1 [.recognised (.exit 7) [.deallocate 0x8000 1]]) = .fault (.exit c t) :=
  ⟨by decide, ⟨_, rfl⟩, _, _, rfl⟩

theorem test_witness_WordAmosComplete :
    (amoState 0x8FFC).mem.wf = true ∧ ((amoState 0x8FFC).getX 11).toNat % 4 = 0 ∧
    WriteAdmitted (amoState 0x8FFC) ((amoState 0x8FFC).getX 11) 4 ∧
    ∀ op ∈ Config.allAtomics, op ∈ (amoState 0x8FFC).cfg.implementedAtomics :=
  ⟨by decide, by decide, writeAdmitted (by decide), fun _ h => h⟩

theorem test_witness_DoubleAmosComplete :
    (amoState 0x8FF8).mem.wf = true ∧ ((amoState 0x8FF8).getX 11).toNat % 8 = 0 ∧
    WriteAdmitted (amoState 0x8FF8) ((amoState 0x8FF8).getX 11) 8 ∧
    ∀ op ∈ Config.allAtomics, op ∈ (amoState 0x8FF8).cfg.implementedAtomics :=
  ⟨by decide, by decide, writeAdmitted (by decide), fun _ h => h⟩

theorem test_witness_LoadReservedCompletes :
    (.lrW ∈ (amoState 0x8FFC).cfg.implementedAtomics ∧ ((amoState 0x8FFC).getX 11).toNat % 4 = 0 ∧
      ReadAdmitted (amoState 0x8FFC) ((amoState 0x8FFC).getX 11) 4) ∧
    (.lrD ∈ (amoState 0x1FF8).cfg.implementedAtomics ∧ ((amoState 0x1FF8).getX 11).toNat % 8 = 0 ∧
      ReadAdmitted (amoState 0x1FF8) ((amoState 0x1FF8).getX 11) 8) :=
  ⟨⟨by decide, by decide, readAdmitted (by decide)⟩, by decide, by decide, readAdmitted (by decide)⟩

/-- SC with the reservation it needs, with none, with one of the other width, and with one at the next address. -/
theorem test_witness_StoreConditionalCompletes :
    (amoState 0x8FFC).mem.wf = true ∧ .scW ∈ (amoState 0x8FFC).cfg.implementedAtomics ∧
    .scD ∈ (amoState 0x8FF8).cfg.implementedAtomics ∧ ((amoState 0x8FFC).getX 11).toNat % 4 = 0 ∧
    ((amoState 0x8FF8).getX 11).toNat % 8 = 0 ∧
    (withResv (some (0x8FFC, .w4)) (amoState 0x8FFC)).resv = some ((amoState 0x8FFC).getX 11, .w4) ∧
    WriteAdmitted (withResv (some (0x8FFC, .w4)) (amoState 0x8FFC)) ((amoState 0x8FFC).getX 11) 4 ∧
    (amoState 0x8FFC).resv ≠ some ((amoState 0x8FFC).getX 11, .w4) ∧
    (withResv (some (0x8FF8, .w8)) (amoState 0x8FF8)).resv = some ((amoState 0x8FF8).getX 11, .w8) ∧
    WriteAdmitted (withResv (some (0x8FF8, .w8)) (amoState 0x8FF8)) ((amoState 0x8FF8).getX 11) 8 ∧
    (withResv (some (0x8FF8, .w4)) (amoState 0x8FF8)).resv ≠ some ((amoState 0x8FF8).getX 11, .w8) ∧
    (withResv (some (0x8FF0, .w8)) (amoState 0x8FF8)).resv ≠ some ((amoState 0x8FF8).getX 11, .w8) :=
  ⟨by decide, by decide, by decide, by decide, by decide, by decide, writeAdmitted (by decide), by decide, by decide,
    writeAdmitted (by decide), by decide, by decide⟩

theorem test_witness_AtomicsGated :
    atomicOf (.amoaddW 10 11 12 0 0) = some (.amoaddW, 4, 11) ∧ .amoaddW ∉ edge.cfg.implementedAtomics ∧
    atomicOf (.lrD 10 11 1 1) = some (.lrD, 8, 11) ∧ ((amoState 0x8004).getX 11).toNat % 8 ≠ 0 := by decide

/-- An LR at an unmapped address, an AMO on read-only memory,
      and both SCs on read-only memory with their reservation. -/
theorem test_witness_AtomicsFault :
    (∀ op ∈ Config.allAtomics, op ∈ (amoState 0x2000).cfg.implementedAtomics) ∧ ((amoState 0x2000).getX 11).toNat % 8 = 0 ∧
    (AtomicOp.lrD ≠ .scW ∧ AtomicOp.lrD ≠ .scD ∧ ¬ReadAdmitted (amoState 0x2000) ((amoState 0x2000).getX 11) 8) ∧
    (isAmo (.amoorD 10 11 12 0 0) = true ∧ ReadAdmitted (amoState 0x1FF8) ((amoState 0x1FF8).getX 11) 8 ∧
      ¬WriteAdmitted (amoState 0x1FF8) ((amoState 0x1FF8).getX 11) 8) ∧
    ((withResv (some (0x1FFC, .w4)) (amoState 0x1FFC)).resv = some ((amoState 0x1FFC).getX 11, .w4) ∧
      ¬WriteAdmitted (withResv (some (0x1FFC, .w4)) (amoState 0x1FFC)) ((amoState 0x1FFC).getX 11) 4) ∧
    ((withResv (some (0x1FF8, .w8)) (amoState 0x1FF8)).resv = some ((amoState 0x1FF8).getX 11, .w8) ∧
      ¬WriteAdmitted (withResv (some (0x1FF8, .w8)) (amoState 0x1FF8)) ((amoState 0x1FF8).getX 11) 8) :=
  ⟨fun _ h => h, by decide, ⟨by decide, by decide, not_readAdmitted (by decide)⟩,
    ⟨by decide, readAdmitted (by decide), not_writeAdmitted (by decide)⟩, ⟨by decide, not_writeAdmitted (by decide)⟩,
    by decide, not_writeAdmitted (by decide)⟩

/-- A store to the reserved bytes. -/
theorem test_witness_ReservationKept :
    (∃ t, exec (.sd 11 12 (-8)) (withResv (some (0x8FF8, .w8)) edge) = .next t) ∧ touchesReservation (.sd 11 12 (-8)) = false :=
  ⟨⟨_, rfl⟩, by decide⟩

theorem test_witness_StepRunsDecoded :
    (4 = (if ((launch (w32 0x07B00513)).mem.byte 0x1000).toNat % 4 = 3 then 4 else 2) ∧
      ReadAdmitted (launch (w32 0x07B00513)) 0x1000 4 ∧
      decodeRow ((launch (w32 0x07B00513)).mem.bytes 0x1000 4) = some (.instr (.addi 10 0 123), 4)) ∧
    (2 = (if ((codeAt 14 [0x01, 0x11]).mem.byte 0x100E).toNat % 4 = 3 then 4 else 2) ∧
      ReadAdmitted (codeAt 14 [0x01, 0x11]) 0x100E 2 ∧
      decodeRow ((codeAt 14 [0x01, 0x11]).mem.bytes 0x100E 2) = some (.instr (.cAddi 2 (-32)), 2)) :=
  ⟨⟨by decide, readAdmitted (by decide), by decide⟩, by decide, readAdmitted (by decide), by decide⟩

theorem test_witness_StepFetchMisses :
    ¬ReadAdmitted (withPc 0x1010 (codeAt 14 [])) 0x1010 1 ∧
    ReadAdmitted (codeAt 14 [0x13, 0x05]) 0x100E 1 ∧ ¬ReadAdmitted (codeAt 14 [0x13, 0x05]) 0x100E 4 ∧
    ((codeAt 14 [0x13, 0x05]).mem.byte 0x100E).toNat % 4 = 3 :=
  ⟨not_readAdmitted (by decide), readAdmitted (by decide), not_readAdmitted (by decide), by decide⟩

theorem test_witness_StepReservedWords :
    (2 = (if ((launch []).mem.byte 0x1000).toNat % 4 = 3 then 4 else 2) ∧ ReadAdmitted (launch []) 0x1000 2 ∧
      decode ((launch []).mem.bytes 0x1000 2) = some (.invalid 0 2, 2)) ∧
    (4 = (if ((codeAt 12 (w32 0x0000001F)).mem.byte 0x100C).toNat % 4 = 3 then 4 else 2) ∧
      ReadAdmitted (codeAt 12 (w32 0x0000001F)) 0x100C 4 ∧
      decode ((codeAt 12 (w32 0x0000001F)).mem.bytes 0x100C 4) = some (.invalid 0x1F 4, 4)) :=
  ⟨⟨by decide, readAdmitted (by decide), by decide⟩, by decide, readAdmitted (by decide), by decide⟩

/-- A store that goes on and an ECALL that exits after removing a region, where no LR is implemented,
      and an LR that is. -/
theorem test_witness_StepKeepsInvariant :
    (launch (w32 0x00A5B023) |>.setX 11 0x8FF8 |>.setX 10 7).Inv ∧
    (∃ t, step (launch (w32 0x00A5B023) |>.setX 11 0x8FF8 |>.setX 10 7) = .next t) ∧
    (launch (w32 0x00000073) |> withSyscalls [.recognised (.exit 1) [.deallocate 0x8000 1]]).Inv ∧
    (∃ c t, step (launch (w32 0x00000073) |> withSyscalls [.recognised (.exit 1) [.deallocate 0x8000 1]]) = .fault (.exit c t)) ∧
    (launch (w32 0x1005A52F) |>.setX 11 0x8000 |> withAtomics [.lrW]).Inv ∧
    ∃ t, step (launch (w32 0x1005A52F) |>.setX 11 0x8000 |> withAtomics [.lrW]) = .next t :=
  ⟨by decide +kernel, step_next_of_continues (by decide +kernel), by decide +kernel, ⟨_, _, rfl⟩, by decide +kernel,
    step_next_of_continues (by decide +kernel)⟩

/-- A taken branch backwards. -/
theorem test_witness_PcStaysEven :
    (launch (w32 0xFEB50FE3)).pc.toNat % 2 = 0 ∧ ∃ t, step (launch (w32 0xFEB50FE3)) = .next t :=
  ⟨by decide, step_next_of_continues (by decide +kernel)⟩

/-- A branch that is not taken, and a compressed form. -/
theorem test_witness_FallThroughAdvances :
    ((∃ t, exec (.bne 10 11 (-2)) State.reset = .next t) ∧ redirects (.bne 10 11 (-2)) State.reset = false) ∧
    ((∃ t, exec (.cMv 10 11) State.reset = .next t) ∧ redirects (.cMv 10 11) State.reset = false) :=
  ⟨⟨⟨_, rfl⟩, by decide⟩, ⟨_, rfl⟩, by decide⟩

theorem test_witness_OnlyStoresChangeMemory :
    ((∃ t, exec (.ld 10 11 (-8)) edge = .next t) ∧ storesMemory (.ld 10 11 (-8)) = false) ∧
    ((∃ t, exec (.sd 11 10 (-8)) edge = .next t) ∧ Instr.sd 11 10 (-8) ≠ .ecall) :=
  ⟨⟨⟨_, rfl⟩, by decide⟩, ⟨_, rfl⟩, by decide⟩

/-- The last byte of the read-only region, and a store elsewhere. -/
theorem test_witness_ReadOnlyBytesKept :
    edge.wf = true ∧ Instr.sd 11 10 (-8) ≠ .ecall ∧ (∃ t, exec (.sd 11 10 (-8)) edge = .next t) ∧
    ∀ R ∈ edge.regions, R.writable = true → ¬(R.base.toNat ≤ 0x1FFF ∧ 0x1FFF < R.base.toNat + R.length.toNat) :=
  ⟨by decide, by decide, ⟨_, rfl⟩, by decide⟩

theorem test_witness_UnimplementedProducers :
    exec (.fsqrtD 1 2 0) State.reset = .fault (.unimplemented (.fsqrtD 1 2 0)) ∧
    exec (.amoaddW 10 11 12 0 0) State.reset = .fault (.unimplemented (.amoaddW 10 11 12 0 0)) :=
  ⟨rfl, rfl⟩

theorem test_witness_TranslateHitsOneRegion :
    tableT0C.wf = true ∧ tableT0C.translate 0xFFFFFFFFFFFFFFFF = some (⟨0xFFFFFFFFFFFFF000, 0x1000, true, true⟩,
      0xFFF) ∧
    (⟨0x11000, 0x2000, true, true⟩ : Region) ∈ tableT0C.regions ∧
    (⟨0x11000, 0x2000, true, true⟩ : Region).contains 0x11000 = true := by decide

/-- The last page of the address space. -/
theorem test_witness_AllocateResults :
    (0x1000 : Word) ≠ 0 ∧ roundedLength tableT0 0x1000 < 2 ^ 64 ∧
    (0xFFFFFFFFFFFFF000 : Word).toNat % max tableT0.cfg.hostPageSize 4096 = 0 ∧
    (0xFFFFFFFFFFFFF000 : Word).toNat + roundedLength tableT0 0x1000 ≤ 2 ^ 64 ∧
    ∀ R ∈ tableT0.regions, R.base.toNat + R.length.toNat ≤ (0xFFFFFFFFFFFFF000 : Word).toNat ∨
      (0xFFFFFFFFFFFFF000 : Word).toNat + roundedLength tableT0 0x1000 ≤ R.base.toNat := by decide

/-- A region for which an address's byte is kept, and one whose bytes go. -/
theorem test_witness_DeallocateResults :
    ∀ R ∈ tableT0.regions, R.base.toNat ≤ 0x10FFF → 0x10FFF < R.base.toNat + R.length.toNat →
      R ∈ (deallocate 0x11800 0x10 tableT0).regions := by decide

/-- The top of the address space, next to region B, and a range that meets A and B. -/
theorem test_witness_RegisterResults :
    tableT0.mem.wf = true ∧ (List.replicate 16 (7 : Byte)).length < 2 ^ 64 ∧ (List.replicate 16 (7 : Byte)).length ≠ 0 ∧
    (0xFFFFFFFFFFFFFFF0 : Word).toNat + (List.replicate 16 (7 : Byte)).length ≤ 2 ^ 64 ∧
    (∀ R ∈ tableT0.regions, R.base.toNat + R.length.toNat ≤ (0x13000 : Word).toNat ∨
      (0x13000 : Word).toNat + (List.replicate 16 (7 : Byte)).length ≤ R.base.toNat) ∧
    ¬∀ R ∈ tableT0.regions, R.base.toNat + R.length.toNat ≤ (0x10FFF : Word).toNat ∨
      (0x10FFF : Word).toNat + (List.replicate 16 (7 : Byte)).length ≤ R.base.toNat := by decide

theorem test_witness_InstallStackSetsSp :
    allocate 0x10000 true none tableT0 = .error .resourceError ∧
    ∃ t, allocate 0x10000 true (some 0x7FFF0000) tableT0 = .ok (0x7FFF0000, t) :=
  ⟨rfl, _, rfl⟩

theorem test_reset_Inv : State.reset.Inv := by decide

/-- A reservation is refused by the invariant where no LR is implemented, and admitted where one is (rule R113). -/
theorem test_resvWf :
    (withResv (some (0x8000, .w8)) State.reset).resvWf = false ∧
    (withResv (some (0x8000, .w8)) (withAtomics [.scD] State.reset)).resvWf = false ∧
    (withResv (some (0x8000, .w8)) (withAtomics [.lrD] State.reset)).resvWf = true := by decide

theorem test_witness_ResetInvariant :
    (construct (Vector.replicate 31 0) (Vector.replicate 32 0) tableT0.regions [] Config.default []).wf = true := by
  decide

end Sys2Proof.Tests
end

section
/-! PROOF. How a step ends: it runs the instruction it decoded, and it exits by the call of an ECALL alone. -/

namespace Sys2Proof.Machine

/-! ### How a step ends -/

theorem step_of_ok {s : State} {i : Instr} (h : fetchDecode s = .ok i) : step s = exec i s := by
  unfold step
  rw [h]

theorem step_of_error {s : State} {r : Fault} (h : fetchDecode s = .error r) : step s = .fault r := by
  unfold step
  rw [h]
  rfl

/-- A step that goes on runs the instruction it decoded. -/
theorem step_next {s t : State} (h : step s = .next t) : ∃ i, fetchDecode s = .ok i ∧ exec i s = .next t := by
  cases hd : fetchDecode s with
  | ok i => exact ⟨i, rfl, step_of_ok hd ▸ h⟩
  | error r => rw [step_of_error hd] at h; cases h

/-! ### Only ECALL exits -/

section

variable {s t : State} {c : Word}

theorem memRead_error {a : Word} {n : Nat} {r : Fault} (h : memRead s a n = .error r) : r = .memoryFault .load a := by
  unfold memRead at h
  split at h <;> cases h
  rfl

theorem memWrite_error {a v : Word} {n : Nat} {r : Fault} (h : memWrite s a n v = .error r) :
    r = .memoryFault .store a := by
  unfold memWrite at h
  split at h <;> cases h
  rfl

theorem fetchRead_error {a : Word} {n : Nat} {r : Fault} (h : fetchRead s a n = .error r) :
    r = .memoryFault .load a := by
  unfold fetchRead at h
  split at h <;> cases h
  rfl

/-- A read does not exit, if what follows it does not. -/
theorem andThen_memRead_ne_exit {a : Word} {n : Nat} {k : Word → Host.Outcome State Fault Refusal}
    (hk : ∀ v, k v ≠ .fault (.exit c t)) : andThen (memRead s a n) k ≠ .fault (.exit c t) := by
  cases hr : memRead s a n with
  | ok v => exact hk v
  | error r => rw [memRead_error hr]; nofun

/-- A write does not exit, if what follows it does not. -/
theorem andThen_memWrite_ne_exit {a v : Word} {n : Nat} {k : State → Host.Outcome State Fault Refusal}
    (hk : ∀ u, k u ≠ .fault (.exit c t)) : andThen (memWrite s a n v) k ≠ .fault (.exit c t) := by
  cases hr : memWrite s a n v with
  | ok u => exact hk u
  | error r => rw [memWrite_error hr]; nofun

theorem loadX_ne_exit {n : Nat} {ext : Word → Word} {rd rs1 : XReg} {imm : Word} {len : Nat} :
    loadX n ext rd rs1 imm len s ≠ .fault (.exit c t) := andThen_memRead_ne_exit fun _ => nofun

theorem loadF_ne_exit {n : Nat} {ext : Word → Word} {rd : FReg} {rs1 : XReg} {imm : Word} {len : Nat} :
    loadF n ext rd rs1 imm len s ≠ .fault (.exit c t) := andThen_memRead_ne_exit fun _ => nofun

theorem storeWord_ne_exit {n : Nat} {v : Word} {rs1 : XReg} {imm : Word} {len : Nat} :
    storeWord n v rs1 imm len s ≠ .fault (.exit c t) := andThen_memWrite_ne_exit fun _ => nofun

theorem branch_ne_exit {cond : Word → Word → Bool} {rs1 rs2 : XReg} {imm : Word} {len : Nat} :
    branch cond rs1 rs2 imm len s ≠ .fault (.exit c t) := by
  rw [branch_eq]
  nofun

theorem gated_ne_exit {op : AtomicOp} {i : Instr} {ea : Word} {n : Nat} {run : Host.Outcome State Fault Refusal}
    (hrun : run ≠ .fault (.exit c t)) : gated op i ea n s run ≠ .fault (.exit c t) := by
  unfold gated
  split
  · exact hrun
  · nofun

theorem loadReserved_ne_exit {op : AtomicOp} {i : Instr} {w : ResvWidth} {ext : Word → Word} {rd rs1 : XReg} :
    loadReserved op i w ext rd rs1 s ≠ .fault (.exit c t) :=
  gated_ne_exit (andThen_memRead_ne_exit fun _ => nofun)

theorem storeConditional_ne_exit {op : AtomicOp} {i : Instr} {w : ResvWidth} {rd rs1 rs2 : XReg} :
    storeConditional op i w rd rs1 rs2 s ≠ .fault (.exit c t) := by
  refine gated_ne_exit ?_
  split
  · exact andThen_memWrite_ne_exit fun _ => nofun
  · nofun

theorem amo_ne_exit {op : AtomicOp} {i : Instr} {w : ResvWidth} {ext : Word → Word} {g : Word → Word → Word}
    {rd rs1 rs2 : XReg} : amo op i w ext g rd rs1 rs2 s ≠ .fault (.exit c t) :=
  gated_ne_exit (andThen_memRead_ne_exit fun _ => andThen_memWrite_ne_exit fun _ => nofun)

theorem withRounding_ne_exit {i : Instr} {rm : BitVec 3} {run : RoundMode → Host.Outcome State Fault Refusal}
    (hrun : ∀ mode, run mode ≠ .fault (.exit c t)) : withRounding i rm run ≠ .fault (.exit c t) := by
  cases hm : roundMode rm with
  | some mode => rw [withRounding_some hm]; exact hrun mode
  | none => rw [withRounding_none hm]; nofun

/-- An exit of ECALL is an exit of its call. -/
theorem execEcall_exit (h : execEcall s = .fault (.exit c t)) :
    syscall s.syscallCall { s with resv := none } = (.exit c, t) := by
  unfold execEcall at h
  split at h
  · rw [writeX_eq] at h; cases h
  · next hu => rw [halt_eq] at h; cases h; exact hu

/-- An instruction that exits does so by ECALL's call: the forms that can stop end with other outcomes, and the other
instructions either always go on or always stop with `breakpoint` or `unimplemented`. -/
theorem exec_exit {i : Instr} (h : exec i s = .fault (.exit c t)) :
    syscall s.syscallCall { s with resv := none } = (.exit c, t) := by
  cases i with
  | ecall => exact execEcall_exit h
  | lb | lh | lw | ld | lbu | lhu | lwu | cLw | cLd | cLwsp | cLdsp => exact absurd h loadX_ne_exit
  | flw | fld | cFld | cFldsp => exact absurd h loadF_ne_exit
  | sb | sh | sw | sd | fsw | fsd | cFsd | cSw | cSd | cFsdsp | cSwsp | cSdsp => exact absurd h storeWord_ne_exit
  | beq | bne | blt | bge | bltu | bgeu | cBeqz | cBnez => exact absurd h branch_ne_exit
  | lrW | lrD => exact absurd h loadReserved_ne_exit
  | scW | scD => exact absurd h storeConditional_ne_exit
  | amoswapW | amoaddW | amoxorW | amoandW | amoorW | amominW | amomaxW | amominuW | amomaxuW
  | amoswapD | amoaddD | amoxorD | amoandD | amoorD | amominD | amomaxD | amominuD | amomaxuD =>
    exact absurd h amo_ne_exit
  | fcvtSD | fcvtDS => exact absurd h (withRounding_ne_exit fun _ => nofun)
  | _ => cases h

end

/-! ### A step that exits -/

theorem decodeFetched_ne_exit {pc : Word} {bs : List Byte} {c : Word} {t : State} :
    decodeFetched pc bs ≠ .error (.exit c t) := by
  unfold decodeFetched
  split <;> nofun

theorem fetch_error {s : State} {r : Fault} (h : fetch s = .error r) : r = .memoryFault .load s.pc := by
  unfold fetch at h
  split at h
  · exact fetchRead_error h
  · next hf => cases h; exact fetchRead_error hf

/-- Neither a fetch miss nor an undecodable word exits. -/
theorem fetchDecode_ne_exit {s t : State} {c : Word} : fetchDecode s ≠ .error (.exit c t) := by
  unfold fetchDecode
  cases hf : fetch s with
  | ok bs => exact decodeFetched_ne_exit
  | error r => rw [fetch_error hf]; nofun

/-- A step exits by the call its ECALL makes, and leaves the state after the call. -/
theorem step_exit {s t : State} {c : Word} (h : step s = .fault (.exit c t)) :
    syscall s.syscallCall { s with resv := none } = (.exit c, t) := by
  cases hd : fetchDecode s with
  | ok i => exact exec_exit (step_of_ok hd ▸ h)
  | error r =>
    rw [step_of_error hd] at h
    cases h
    exact absurd hd fetchDecode_ne_exit

end Sys2Proof.Machine
end

section
/-! PROOF. The invariant of the region table, memory and reservation: every way an instruction goes on (`NextOf`) and
every call that exits keeps it. -/

namespace Sys2Proof.Machine

/-! ### What every step keeps (rules R110, R111, R113) -/

theorem Config.hasReservation_eq_false {c : Config} :
    c.hasReservation = false ↔ .lrW ∉ c.implementedAtomics ∧ .lrD ∉ c.implementedAtomics := by
  simp [Config.hasReservation]

/-- Whatever is answered, a call keeps the state well formed. -/
theorem syscall_wf {s : State} (h : s.wf = true) (c : SyscallCall) : (syscall c s).2.wf = true := by
  cases hs : s.syscalls with
  | nil => rw [syscall_nil hs]; exact h
  | cons a rest => rw [syscall_cons hs]; exact applyGuestOps_wf (s := { s with syscalls := rest }) h _

/-- A call made without a reservation comes back without one. -/
theorem syscall_resv_none {s : State} (h : s.resv = none) (c : SyscallCall) : (syscall c s).2.resv = none := by
  obtain ⟨-, -, -, hresv, -⟩ := syscall_sameBlock c s
  rw [hresv, h]

/-- The state after an ECALL's call is well formed, whatever the call returns. -/
theorem ecall_wf {s t : State} {r : SyscallResult} (h : syscall s.syscallCall { s with resv := none } = (r, t))
    (hs : s.wf = true) : t.wf = true := by
  have := syscall_wf (s := { s with resv := none }) hs s.syscallCall
  rwa [h] at this

/-- An ECALL's call leaves no reservation (rule R1011). -/
theorem ecall_resv {s t : State} {r : SyscallResult} (h : syscall s.syscallCall { s with resv := none } = (r, t)) :
    t.resv = none := by
  have := syscall_resv_none (s := { s with resv := none }) rfl s.syscallCall
  rwa [h] at this

theorem NextOf.wf {s t : State} (h : NextOf s t) (hs : s.wf = true) : t.wf = true := by
  cases h with
  | pc | f => exact hs
  | x | resv => rw [← hs]; apply State.wf_congr <;> simp
  | store _ _ v _ hw => exact State.wf_store hs v hw
  | scStore _ _ v _ _ _ hw | amo _ _ v _ _ _ hw =>
    rw [← State.wf_store hs v hw]; apply State.wf_congr <;> simp
  | ecall _ u hu => rw [← ecall_wf hu hs]; apply State.wf_congr <;> simp

theorem NextOf.resvWf {s t : State} (h : NextOf s t) (hs : s.resvWf = true) : t.resvWf = true := by
  cases h with
  | pc | f | store => exact hs
  | x | amo => rw [← hs]; apply State.resvWf_congr <;> simp
  | resv _ _ _ _ hr =>
    rcases hr with rfl | hr
    · exact State.resvWf_of_none (by simp)
    · exact State.resvWf_of_hasReservation (by simpa using hr)
  | scStore => exact State.resvWf_of_none (by simp)
  | ecall _ _ hu => exact State.resvWf_of_none (by simpa using ecall_resv hu)

/-- `t` is what a step from `s` leaves: the next state, or the state of an exit. -/
def Leaves (s t : State) : Prop := step s = .next t ∨ ∃ c, step s = .fault (.exit c t)

theorem Leaves.cases {s t : State} (h : Leaves s t) :
    NextOf s t ∨ ∃ r, syscall s.syscallCall { s with resv := none } = (r, t) := by
  rcases h with h | ⟨c, h⟩
  · obtain ⟨i, -, hi⟩ := step_next h
    exact .inl (exec_nextOf hi)
  · exact .inr ⟨_, step_exit h⟩

theorem Leaves.wf {s t : State} (h : Leaves s t) (hs : s.wf = true) : t.wf = true := by
  obtain hn | ⟨r, hr⟩ := h.cases
  · exact hn.wf hs
  · exact ecall_wf hr hs

theorem Leaves.resvWf {s t : State} (h : Leaves s t) (hs : s.resvWf = true) : t.resvWf = true := by
  obtain hn | ⟨r, hr⟩ := h.cases
  · exact hn.resvWf hs
  · exact State.resvWf_of_none (ecall_resv hr)

theorem State.resvWf_iff_not_mem {s : State} : s.resvWf = true ↔
    (.lrW ∉ s.cfg.implementedAtomics → .lrD ∉ s.cfg.implementedAtomics → s.resv = none) := by
  rw [State.resvWf_iff, Config.hasReservation_eq_false, and_imp]

/-- Settles O49, by what a step leaves: a next state of `NextOf`, or the state after an ECALL's call. -/
theorem stepKeepsInvariant : Obligations.StepKeepsInvariant := by
  intro s t h
  have hl : Leaves s t := h
  refine ⟨fun ⟨hwf, hresv⟩ => ⟨hl.wf hwf, hl.resvWf hresv⟩, hl.wf, ?_⟩
  rw [← State.resvWf_iff_not_mem, ← State.resvWf_iff_not_mem]
  exact hl.resvWf

/-! ### Construction and reset (rules R140, R1200) -/

/-- A machine constructed over a well-formed region table and memory meets the invariant: it has no reservation. -/
theorem construct_inv {x : Vector Word 31} {f : Vector Word 32} {regions : List Region} {mem : Memory} {cfg : Config}
    {syscalls : List SyscallAnswer} (h : (construct x f regions mem cfg syscalls).wf = true) :
    (construct x f regions mem cfg syscalls).Inv :=
  ⟨h, State.resvWf_of_none rfl⟩

/-- The reset state is a machine constructed with no region. -/
theorem State.reset_eq_construct :
    State.reset = construct (Vector.replicate 31 0) (Vector.replicate 32 0) [] [] Config.default [] := rfl

/-- Settles O50: the reset state is a constructed machine, and construction starts with no reservation. -/
theorem resetInvariant : Obligations.ResetInvariant := by
  refine ⟨⟨?_, rfl, rfl, State.getX_zero _⟩, fun _ _ _ _ _ _ h => ⟨construct_inv h, rfl⟩⟩
  rw [State.reset_eq_construct]
  exact construct_inv rfl

/-! ### Integer registers (rule R101) -/

/-- Settles O7, by the laws of register reads after a register write. -/
theorem zeroRegister : Obligations.ZeroRegister :=
  fun s v => ⟨s.getX_zero, s.setX_zero v, fun r hr => ⟨s.getX_setX_same r v hr, fun q hq => s.getX_setX_ne r q v hq⟩⟩

end Sys2Proof.Machine
end

section
/-! PROOF. Every instruction the decoder answers is well formed: its immediates are in the ranges of their fields, its
compressed registers are x8 to x15, and it is none of the reserved compressed cases (rules R310 to R315, R410 to
R451). -/

namespace Sys2Proof

/-! ### The ranges of immediates and compressed registers -/

theorem extractLsb'_signExtend_append {lo n : Nat} (x : BitVec n) (h : lo + n ≤ 64) :
    ((x ++ 0#lo).signExtend 64).extractLsb' lo n = x := by
  ext i hi
  rw [BitVec.getElem_extractLsb', BitVec.getLsbD_signExtend, decide_eq_true (by omega), if_pos (by omega),
    BitVec.getLsbD_append, if_neg (by omega), Nat.add_sub_cancel_left, Bool.true_and, BitVec.getLsbD_eq_getElem hi]

theorem extractLsb'_setWidth_append {lo n : Nat} (x : BitVec n) (h : lo + n ≤ 64) :
    ((x ++ 0#lo).setWidth 64).extractLsb' lo n = x := by
  ext i hi
  rw [BitVec.getElem_extractLsb', BitVec.getLsbD_setWidth, decide_eq_true (by omega),
    BitVec.getLsbD_append, if_neg (by omega), Nat.add_sub_cancel_left, Bool.true_and, BitVec.getLsbD_eq_getElem hi]

theorem isSext_signExtend {lo n : Nat} (x : BitVec n) (h : lo + n ≤ 64) :
    isSext lo n ((x ++ 0#lo).signExtend 64) = true := by
  rw [isSext, extractLsb'_signExtend_append x h, beq_self_eq_true]

theorem isZext_setWidth {lo n : Nat} (x : BitVec n) (h : lo + n ≤ 64) :
    isZext lo n ((x ++ 0#lo).setWidth 64) = true := by
  rw [isZext, extractLsb'_setWidth_append x h, beq_self_eq_true]

/-- A sign-extended field that is not scaled is in its range. -/
theorem isSext_zero {n : Nat} (x : BitVec n) (h : n ≤ 64) : isSext 0 n (x.signExtend 64) = true := by
  have hx := isSext_signExtend (lo := 0) x (by omega)
  rwa [BitVec.append_zero_width] at hx

theorem isCReg_cReg (r : BitVec 3) : isCReg (cReg r) = true := by
  revert r
  decide

@[simp] theorem isCReg_cRs1' (w : BitVec 16) : isCReg (cRs1' w) = true := isCReg_cReg _

@[simp] theorem isCReg_cRs2' (w : BitVec 16) : isCReg (cRs2' w) = true := isCReg_cReg _

@[simp] theorem isSext_immI (w : BitVec 32) : isSext 0 12 (immI w) = true := isSext_zero _ (by decide)

@[simp] theorem isSext_immS (w : BitVec 32) : isSext 0 12 (immS w) = true := isSext_zero (n := 12) _ (by decide)

@[simp] theorem isSext_immB (w : BitVec 32) : isSext 1 12 (immB w) = true := isSext_signExtend (n := 12) _ (by decide)

@[simp] theorem isSext_immJ (w : BitVec 32) : isSext 1 20 (immJ w) = true := isSext_signExtend (n := 20) _ (by decide)

@[simp] theorem isSext_immU (w : BitVec 32) : isSext 12 20 (immU w) = true := isSext_signExtend (n := 20) _ (by decide)

@[simp] theorem isSext_cImm6 (w : BitVec 16) : isSext 0 6 (cImm6 w) = true := isSext_zero (n := 6) _ (by decide)

@[simp] theorem isSext_cImm16sp (w : BitVec 16) : isSext 4 6 (cImm16sp w) = true :=
  isSext_signExtend (n := 6) _ (by decide)

@[simp] theorem isSext_cImmLui (w : BitVec 16) : isSext 12 6 (cImmLui w) = true :=
  isSext_signExtend (n := 6) _ (by decide)

@[simp] theorem isSext_cImmJ (w : BitVec 16) : isSext 1 11 (cImmJ w) = true := isSext_signExtend (n := 11) _ (by decide)

@[simp] theorem isSext_cImmB (w : BitVec 16) : isSext 1 8 (cImmB w) = true := isSext_signExtend (n := 8) _ (by decide)

@[simp] theorem isZext_cImm4spn (w : BitVec 16) : isZext 2 8 (cImm4spn w) = true :=
  isZext_setWidth (n := 8) _ (by decide)

@[simp] theorem isZext_cImmW (w : BitVec 16) : isZext 2 5 (cImmW w) = true := isZext_setWidth (n := 5) _ (by decide)

@[simp] theorem isZext_cImmD (w : BitVec 16) : isZext 3 5 (cImmD w) = true := isZext_setWidth (n := 5) _ (by decide)

@[simp] theorem isZext_cImmLdsp (w : BitVec 16) : isZext 3 6 (cImmLdsp w) = true :=
  isZext_setWidth (n := 6) _ (by decide)

@[simp] theorem isZext_cImmLwsp (w : BitVec 16) : isZext 2 6 (cImmLwsp w) = true :=
  isZext_setWidth (n := 6) _ (by decide)

@[simp] theorem isZext_cImmSdsp (w : BitVec 16) : isZext 3 6 (cImmSdsp w) = true :=
  isZext_setWidth (n := 6) _ (by decide)

@[simp] theorem isZext_cImmSwsp (w : BitVec 16) : isZext 2 6 (cImmSwsp w) = true :=
  isZext_setWidth (n := 6) _ (by decide)

theorem toNat_even_iff {v : Word} : v.toNat % 2 = 0 ↔ v.getLsbD 0 = false := by
  rw [BitVec.getLsbD, Nat.testBit_zero, decide_eq_false_iff_not]
  omega

/-- An offset in units of two bytes is even. -/
theorem isSext_even {n : Nat} {imm : Word} (h : isSext 1 n imm = true) : imm.toNat % 2 = 0 := by
  rw [toNat_even_iff, beq_iff_eq.1 h, BitVec.getLsbD_signExtend, if_pos (by omega), BitVec.getLsbD_append]
  rfl

/-! ### The group decoders (rules R321 to R338, R410 to R451) -/

theorem decodeLoad_wf (w : BitVec 32) : (decodeLoad w).all Instr.wf = true := by
  unfold decodeLoad
  split <;> simp [Instr.wf]

theorem decodeLoadFp_wf (w : BitVec 32) : (decodeLoadFp w).all Instr.wf = true := by
  unfold decodeLoadFp
  split <;> simp [Instr.wf]

theorem decodeMiscMem_wf (w : BitVec 32) : (decodeMiscMem w).all Instr.wf = true := by
  unfold decodeMiscMem
  split <;> rfl

theorem decodeOpImm_wf (w : BitVec 32) : (decodeOpImm w).all Instr.wf = true := by
  unfold decodeOpImm
  repeat' split
  all_goals simp [Instr.wf]

theorem decodeOpImm32_wf (w : BitVec 32) : (decodeOpImm32 w).all Instr.wf = true := by
  unfold decodeOpImm32
  repeat' split
  all_goals simp [Instr.wf]

theorem decodeStore_wf (w : BitVec 32) : (decodeStore w).all Instr.wf = true := by
  unfold decodeStore
  split <;> simp [Instr.wf]

theorem decodeStoreFp_wf (w : BitVec 32) : (decodeStoreFp w).all Instr.wf = true := by
  unfold decodeStoreFp
  split <;> simp [Instr.wf]

theorem decodeAmoW_wf (w : BitVec 32) : (decodeAmoW w).all Instr.wf = true := by
  unfold decodeAmoW
  repeat' split
  all_goals rfl

theorem decodeAmoD_wf (w : BitVec 32) : (decodeAmoD w).all Instr.wf = true := by
  unfold decodeAmoD
  repeat' split
  all_goals rfl

theorem decodeAmo_wf (w : BitVec 32) : (decodeAmo w).all Instr.wf = true := by
  unfold decodeAmo
  split
  · exact decodeAmoW_wf w
  · exact decodeAmoD_wf w
  · rfl

theorem decodeOp_wf (w : BitVec 32) : (decodeOp w).all Instr.wf = true := by
  unfold decodeOp
  repeat' split
  all_goals rfl

theorem decodeOp32_wf (w : BitVec 32) : (decodeOp32 w).all Instr.wf = true := by
  unfold decodeOp32
  repeat' split
  all_goals rfl

theorem decodeMadd_wf (w : BitVec 32) : (decodeMadd w).all Instr.wf = true := by
  unfold decodeMadd
  split <;> rfl

theorem decodeMsub_wf (w : BitVec 32) : (decodeMsub w).all Instr.wf = true := by
  unfold decodeMsub
  split <;> rfl

theorem decodeNmsub_wf (w : BitVec 32) : (decodeNmsub w).all Instr.wf = true := by
  unfold decodeNmsub
  split <;> rfl

theorem decodeNmadd_wf (w : BitVec 32) : (decodeNmadd w).all Instr.wf = true := by
  unfold decodeNmadd
  split <;> rfl

theorem decodeOpFp_wf (w : BitVec 32) : (decodeOpFp w).all Instr.wf = true := by
  unfold decodeOpFp
  repeat' split
  all_goals rfl

theorem decodeBranch_wf (w : BitVec 32) : (decodeBranch w).all Instr.wf = true := by
  unfold decodeBranch
  split <;> simp [Instr.wf]

theorem decodeJalr_wf (w : BitVec 32) : (decodeJalr w).all Instr.wf = true := by
  unfold decodeJalr
  split <;> simp [Instr.wf]

theorem decodeSystem_wf (w : BitVec 32) : (decodeSystem w).all Instr.wf = true := by
  unfold decodeSystem
  split <;> rfl

theorem decode32_wf (w : BitVec 32) : (decode32 w).all Instr.wf = true := by
  unfold decode32
  split
  · exact decodeLoad_wf w
  · exact decodeLoadFp_wf w
  · exact decodeMiscMem_wf w
  · exact decodeOpImm_wf w
  · simp [Instr.wf]
  · exact decodeOpImm32_wf w
  · exact decodeStore_wf w
  · exact decodeStoreFp_wf w
  · exact decodeAmo_wf w
  · exact decodeOp_wf w
  · simp [Instr.wf]
  · exact decodeOp32_wf w
  · exact decodeMadd_wf w
  · exact decodeMsub_wf w
  · exact decodeNmsub_wf w
  · exact decodeNmadd_wf w
  · exact decodeOpFp_wf w
  · exact decodeBranch_wf w
  · exact decodeJalr_wf w
  · simp [Instr.wf]
  · exact decodeSystem_wf w
  · rfl

theorem decodeQ0_wf (w : BitVec 16) : (decodeQ0 w).all Instr.wf = true := by
  unfold decodeQ0
  split
  · split
    · rfl
    · next h0 => simpa [Instr.wf] using h0
  all_goals simp [Instr.wf]

theorem decodeCArith_wf (w : BitVec 16) : (decodeCArith w).all Instr.wf = true := by
  unfold decodeCArith
  split
  · simp [Instr.wf]
  · simp [Instr.wf]
  · simp [Instr.wf]
  · split <;> simp [Instr.wf]

theorem decodeQ1_wf (w : BitVec 16) : (decodeQ1 w).all Instr.wf = true := by
  unfold decodeQ1
  split
  · split
    · rfl
    · next h0 => simpa [Instr.wf, Decidable.imp_iff_not_or] using h0
  · split <;> simp_all [Instr.wf]
  · simp [Instr.wf]
  · split <;> split <;> simp_all [Instr.wf]
  · exact decodeCArith_wf w
  all_goals simp [Instr.wf]

theorem decodeCR_wf (w : BitVec 16) : (decodeCR w).all Instr.wf = true := by
  unfold decodeCR
  split <;> split
  · split <;> simp_all [Instr.wf]
  · simp_all [Instr.wf]
  · split <;> simp_all [Instr.wf]
  · simp_all [Instr.wf]

theorem decodeQ2_wf (w : BitVec 16) : (decodeQ2 w).all Instr.wf = true := by
  unfold decodeQ2
  split
  case h_3 | h_4 => split <;> simp_all [Instr.wf]
  case h_5 => exact decodeCR_wf w
  all_goals simp [Instr.wf]

theorem decode16_wf (w : BitVec 16) : (decode16 w).all Instr.wf = true := by
  unfold decode16
  split
  · exact decodeQ0_wf w
  · exact decodeQ1_wf w
  · exact decodeQ2_wf w
  · rfl

/-! ### From words to windows -/

/-- Every instruction a 32-bit word decodes to is well formed. -/
theorem wellFormed_of_decodeFull {w : BitVec 32} {i : Instr} (h : decodeFull w = .instr i) : i.WellFormed := by
  have hw := decode32_wf w
  unfold decodeFull at h
  split at h
  · next hd => cases h; rwa [hd] at hw
  · cases h

/-- Every instruction a 16-bit word decodes to is well formed. -/
theorem wellFormed_of_decodeHalf {w : BitVec 16} {i : Instr} (h : decodeHalf w = .instr i) : i.WellFormed := by
  have hw := decode16_wf w
  unfold decodeHalf at h
  split at h
  · next hd => cases h; rwa [hd] at hw
  · cases h

/-- What the row decoder answers is the answer for a word, with the word's length. -/
theorem decodeRow_some {bs : List Byte} {d : Decoded} {n : Nat} (h : decodeRow bs = some (d, n)) :
    (∃ w, decodeFull w = d ∧ n = 4) ∨ ∃ w, decodeHalf w = d ∧ n = 2 := by
  cases bs with
  | nil => cases h
  | cons b0 rest =>
    simp only [decodeRow] at h
    split at h <;> split at h
    · obtain ⟨hd, hn⟩ := Prod.mk.inj (Option.some.inj h)
      exact .inl ⟨_, hd, hn.symm⟩
    · cases h
    · obtain ⟨hd, hn⟩ := Prod.mk.inj (Option.some.inj h)
      exact .inr ⟨_, hd, hn.symm⟩
    · cases h

/-- Every row a window decodes to is well formed. -/
theorem wellFormed_of_decodeRow {bs : List Byte} {i : Instr} {n : Nat} (h : decodeRow bs = some (.instr i, n)) :
    i.WellFormed := by
  obtain ⟨w, hw, -⟩ | ⟨w, hw, -⟩ := decodeRow_some h
  · exact wellFormed_of_decodeFull hw
  · exact wellFormed_of_decodeHalf hw

end Sys2Proof
end

section
/-! PROOF. Where the pc goes, for every instruction that goes on (`PcOf`), and that it stays even. -/

namespace Sys2Proof.Machine

/-! ### Where an instruction sends the pc (rules R504, R503) -/

/-- The pc offset a jump or branch encodes (rules R800, R802 to R807, R435, R436). -/
def pcOffset (i : Instr) : Option Word :=
  match i with
  | .jal _ imm | .beq _ _ imm | .bne _ _ imm | .blt _ _ imm | .bge _ _ imm | .bltu _ _ imm | .bgeu _ _ imm
  | .cJ imm | .cBeqz _ imm | .cBnez _ imm => some imm
  | _ => none

/-- The pc `p` that `i`, where it goes on from `s`, leaves: by a redirect only where `redirects` says so (rule R504). -/
inductive PcOf (i : Instr) (s : State) (p : Word) : Prop where
  /-- The next instruction. -/
  | next (h : p = s.pc + BitVec.ofNat 64 (instrLen i))
  /-- A jump or a taken branch, by the offset it encodes. -/
  | offset (imm : Word) (hi : pcOffset i = some imm) (hr : redirects i s = true) (h : p = s.pc + imm)
  /-- A register jump, with bit 0 cleared. -/
  | target (a : Word) (hr : redirects i s = true) (h : p = a &&& ~~~1)

section

variable {s t : State}

theorem writeX_pc {rd : XReg} {v : Word} {len : Nat} (h : writeX rd v len s = .next t) :
    t.pc = s.pc + BitVec.ofNat 64 len := by
  rw [writeX_eq] at h
  cases h
  rfl

theorem writeF_pc {rd : FReg} {v : Word} {len : Nat} (h : writeF rd v len s = .next t) :
    t.pc = s.pc + BitVec.ofNat 64 len := by
  rw [writeF_eq] at h
  cases h
  rfl

theorem advance_pc {len : Nat} (h : advance len s = .next t) : t.pc = s.pc + BitVec.ofNat 64 len := by
  rw [advance_eq] at h
  cases h
  rfl

theorem andThen_next {α : Type} {r : Except Fault α} {k : α → Host.Outcome State Fault Refusal}
    (h : andThen r k = .next t) : ∃ a, r = .ok a ∧ k a = .next t := by
  cases r with
  | ok a => exact ⟨a, rfl, h⟩
  | error e => cases h

theorem memWrite_pc {u : State} {a v : Word} {n : Nat} (h : memWrite s a n v = .ok u) : u.pc = s.pc := by
  unfold memWrite at h
  split at h <;> cases h
  rfl

theorem loadX_pc {n : Nat} {ext : Word → Word} {rd rs1 : XReg} {imm : Word} {len : Nat}
    (h : loadX n ext rd rs1 imm len s = .next t) : t.pc = s.pc + BitVec.ofNat 64 len := by
  obtain ⟨v, -, h⟩ := andThen_next h
  exact writeX_pc h

theorem loadF_pc {n : Nat} {ext : Word → Word} {rd : FReg} {rs1 : XReg} {imm : Word} {len : Nat}
    (h : loadF n ext rd rs1 imm len s = .next t) : t.pc = s.pc + BitVec.ofNat 64 len := by
  obtain ⟨v, -, h⟩ := andThen_next h
  exact writeF_pc h

theorem storeWord_pc {n : Nat} {v : Word} {rs1 : XReg} {imm : Word} {len : Nat}
    (h : storeWord n v rs1 imm len s = .next t) : t.pc = s.pc + BitVec.ofNat 64 len := by
  obtain ⟨u, hu, h⟩ := andThen_next h
  rw [advance_pc h, memWrite_pc hu]

theorem loadReserved_pc {op : AtomicOp} {i : Instr} {w : ResvWidth} {ext : Word → Word} {rd rs1 : XReg}
    (h : loadReserved op i w ext rd rs1 s = .next t) : t.pc = s.pc + BitVec.ofNat 64 4 := by
  obtain ⟨-, h⟩ := gated_next h
  obtain ⟨v, -, h⟩ := andThen_next h
  exact (writeX_pc h :)

theorem storeConditional_pc {op : AtomicOp} {i : Instr} {w : ResvWidth} {rd rs1 rs2 : XReg}
    (h : storeConditional op i w rd rs1 rs2 s = .next t) : t.pc = s.pc + BitVec.ofNat 64 4 := by
  obtain ⟨-, h⟩ := gated_next h
  split at h
  · obtain ⟨u, hu, h⟩ := andThen_next h
    rw [writeX_pc h, ← memWrite_pc hu]
  · exact (writeX_pc h :)

theorem amo_pc {op : AtomicOp} {i : Instr} {w : ResvWidth} {ext : Word → Word} {g : Word → Word → Word}
    {rd rs1 rs2 : XReg} (h : amo op i w ext g rd rs1 rs2 s = .next t) : t.pc = s.pc + BitVec.ofNat 64 4 := by
  obtain ⟨-, h⟩ := gated_next h
  obtain ⟨v, -, h⟩ := andThen_next h
  obtain ⟨u, hu, h⟩ := andThen_next h
  rw [writeX_pc h, memWrite_pc hu]

theorem withRounding_pc {i : Instr} {rm : BitVec 3} {rd : FReg} {v : RoundMode → Word} {len : Nat}
    (h : withRounding i rm (fun mode => writeF rd (v mode) len s) = .next t) :
    t.pc = s.pc + BitVec.ofNat 64 len := by
  cases hm : roundMode rm with
  | some mode => rw [withRounding_some hm] at h; exact writeF_pc h
  | none => rw [withRounding_none hm] at h; cases h

theorem execEcall_pc (h : execEcall s = .next t) : t.pc = s.pc + BitVec.ofNat 64 4 := by
  unfold execEcall at h
  split at h
  · next v u hu =>
    obtain ⟨-, -, hpc, -, -⟩ := syscall_sameBlock s.syscallCall { s with resv := none }
    rw [hu] at hpc
    rw [writeX_pc h, hpc]
  · rw [halt_eq] at h; cases h

theorem jumpOffset_pcOf {i : Instr} {rd : XReg} {imm : Word} {len : Nat} (hi : pcOffset i = some imm)
    (hr : redirects i s = true) (h : jumpOffset rd imm len s = .next t) : PcOf i s t.pc := by
  rw [jumpOffset_eq] at h
  cases h
  exact .offset imm hi hr rfl

theorem jumpRegister_pcOf {i : Instr} {rd rs1 : XReg} {imm : Word} {len : Nat} (hr : redirects i s = true)
    (h : jumpRegister rd rs1 imm len s = .next t) : PcOf i s t.pc := by
  rw [jumpRegister_eq] at h
  cases h
  exact .target _ hr rfl

theorem branch_pcOf {i : Instr} {cond : Word → Word → Bool} {rs1 rs2 : XReg} {imm : Word}
    (hi : pcOffset i = some imm) (hr : redirects i s = cond (s.getX rs1) (s.getX rs2))
    (h : branch cond rs1 rs2 imm (instrLen i) s = .next t) : PcOf i s t.pc := by
  rw [branch_eq, ← hr] at h
  cases h
  cases hc : redirects i s with
  | true => exact .offset imm hi hc rfl
  | false => exact .next rfl

/-- Every instruction that goes on sends the pc where `PcOf` says. -/
theorem exec_pcOf {i : Instr} (h : exec i s = .next t) : PcOf i s t.pc := by
  cases i with
  | jal | cJ => exact jumpOffset_pcOf rfl rfl h
  | jalr | cJr | cJalr => exact jumpRegister_pcOf rfl h
  | beq | bne | blt | bge | bltu | bgeu | cBeqz | cBnez => exact branch_pcOf rfl rfl h
  | lb | lh | lw | ld | lbu | lhu | lwu | cLw | cLd | cLwsp | cLdsp => exact .next (loadX_pc h)
  | flw | fld | cFld | cFldsp => exact .next (loadF_pc h)
  | sb | sh | sw | sd | fsw | fsd | cFsd | cSw | cSd | cFsdsp | cSwsp | cSdsp => exact .next (storeWord_pc h)
  | lrW | lrD => exact .next (loadReserved_pc h)
  | scW | scD => exact .next (storeConditional_pc h)
  | amoswapW | amoaddW | amoxorW | amoandW | amoorW | amominW | amomaxW | amominuW | amomaxuW
  | amoswapD | amoaddD | amoxorD | amoandD | amoorD | amominD | amomaxD | amominuD | amomaxuD =>
    exact .next (amo_pc h)
  | fence => exact .next (advance_pc h)
  | ecall => exact .next (execEcall_pc h)
  | fmvWX | fmvDX => exact .next (writeF_pc h)
  | fcvtSD | fcvtDS => exact .next (withRounding_pc h)
  | lui | auipc | addi | slti | sltiu | xori | ori | andi | slli | srli | srai | add | sub | sll | slt | sltu | xor
  | srl | sra | or | and | addiw | slliw | srliw | sraiw | addw | subw | sllw | srlw | sraw
  | mul | mulh | mulhsu | mulhu | div | divu | rem | remu | mulw | divw | divuw | remw | remuw
  | fmvXW | fmvXD | cAddi4spn | cNop | cAddi | cAddiw | cLi | cAddi16sp | cLui | cSrli | cSrai | cAndi | cSub | cXor
  | cOr | cAnd | cSubw | cAddw | cSlli | cMv | cAdd => exact .next (writeX_pc h)
  | _ => cases h

end

/-! ### An even pc (rules R108, R801) -/

theorem decodeFetched_wellFormed {pc : Word} {bs : List Byte} {i : Instr} (h : decodeFetched pc bs = .ok i) :
    i.WellFormed := by
  unfold decodeFetched at h
  split at h
  · next hd => cases h; exact wellFormed_of_decodeRow hd
  · cases h
  · cases h

/-- The instruction a step runs is well formed. -/
theorem fetchDecode_wellFormed {s : State} {i : Instr} (h : fetchDecode s = .ok i) : i.WellFormed := by
  unfold fetchDecode at h
  split at h
  · exact decodeFetched_wellFormed h
  · cases h

theorem instrLen_eq (i : Instr) : instrLen i = 2 ∨ instrLen i = 4 := by
  unfold instrLen
  cases encode i with
  | half _ => exact .inl rfl
  | full _ => exact .inr rfl

theorem pcOffset_even {i : Instr} {imm : Word} (hw : i.WellFormed) (h : pcOffset i = some imm) :
    imm.toNat % 2 = 0 := by
  cases i with
  | jal | beq | bne | blt | bge | bltu | bgeu | cJ => cases h; exact isSext_even hw
  | cBeqz | cBnez => cases h; exact isSext_even (Bool.and_eq_true_iff.1 hw).2
  | _ => cases h

theorem toNat_add_even {v w : Word} (hv : v.toNat % 2 = 0) (hw : w.toNat % 2 = 0) : (v + w).toNat % 2 = 0 := by
  rw [BitVec.toNat_add]
  omega

theorem PcOf.even {i : Instr} {s : State} {p : Word} (h : PcOf i s p) (hw : i.WellFormed) (hs : s.pc.toNat % 2 = 0) :
    p.toNat % 2 = 0 := by
  cases h with
  | next hp =>
    have hlen : (BitVec.ofNat 64 (instrLen i)).toNat % 2 = 0 := by rcases instrLen_eq i with h | h <;> rw [h] <;> rfl
    exact hp ▸ toNat_add_even hs hlen
  | offset imm hi _ hp => exact hp ▸ toNat_add_even hs (pcOffset_even hw hi)
  | target a _ hp => rw [hp, toNat_even_iff, BitVec.getLsbD_and]; exact Bool.and_false _

/-- Settles O51, by where the decoded instruction sends the pc: each length is even, each offset that decodes is even,
and a register target has bit 0 cleared. -/
theorem pcStaysEven : Obligations.PcStaysEven := by
  intro s t hs h
  obtain ⟨i, hd, hi⟩ := step_next h
  exact (exec_pcOf hi).even (fetchDecode_wellFormed hd) hs

end Sys2Proof.Machine
end

section
/-! PROOF. What an instruction other than ECALL does to memory and the region table (`SpaceOf`): nothing, or one admitted
store. From it, which instructions change memory at all (rules R209, R230), and that a store reaches writable regions
alone (rules R211, R213, R225). -/

namespace Sys2Proof.Machine

open Sys2Proof.Claims

/-! ### What an instruction does to memory and the region table -/

/-- What `i` can do to memory and the region table, where it is no ECALL and goes on from `s` to `t`. -/
inductive SpaceOf (i : Instr) (s t : State) : Prop where
  /-- Nothing. -/
  | same (hregions : t.regions = s.regions) (hmem : t.mem = s.mem)
  /-- A store that is admitted, by an instruction that stores. -/
  | stored (a : Word) (n : Nat) (v : Word) (hi : storesMemory i = true) (hw : s.writable a n = true)
      (hregions : t.regions = s.regions) (hmem : t.mem = s.mem.setBytes a.toNat (leBytes n v))

section

variable {i : Instr} {s t : State}

/-- Writing an integer register keeps memory and the region table. -/
theorem writeX_keeps {rd : XReg} {v : Word} {len : Nat} (h : writeX rd v len s = .next t) :
    t.regions = s.regions ∧ t.mem = s.mem := by
  rw [writeX_eq] at h
  cases h
  exact ⟨State.setX_regions .., State.setX_mem ..⟩

theorem writeX_spaceOf {rd : XReg} {v : Word} {len : Nat} (h : writeX rd v len s = .next t) : SpaceOf i s t := by
  obtain ⟨hregions, hmem⟩ := writeX_keeps h
  exact .same hregions hmem

theorem writeF_spaceOf {rd : FReg} {v : Word} {len : Nat} (h : writeF rd v len s = .next t) : SpaceOf i s t := by
  rw [writeF_eq] at h
  cases h
  exact .same rfl rfl

theorem redirect_setX_spaceOf {rd : XReg} {v p : Word} (h : redirect p (s.setX rd v) = .next t) : SpaceOf i s t := by
  rw [redirect_eq] at h
  cases h
  exact .same (State.setX_regions ..) (State.setX_mem ..)

theorem branch_spaceOf {cond : Word → Word → Bool} {rs1 rs2 : XReg} {imm : Word} {len : Nat}
    (h : branch cond rs1 rs2 imm len s = .next t) : SpaceOf i s t := by
  rw [branch_eq] at h
  cases h
  exact .same rfl rfl

theorem advance_spaceOf {len : Nat} (h : advance len s = .next t) : SpaceOf i s t := by
  rw [advance_eq] at h
  cases h
  exact .same rfl rfl

theorem loadX_spaceOf {n : Nat} {ext : Word → Word} {rd rs1 : XReg} {imm : Word} {len : Nat}
    (h : loadX n ext rd rs1 imm len s = .next t) : SpaceOf i s t := by
  obtain ⟨v, -, h⟩ := andThen_next h
  exact writeX_spaceOf h

theorem loadF_spaceOf {n : Nat} {ext : Word → Word} {rd : FReg} {rs1 : XReg} {imm : Word} {len : Nat}
    (h : loadF n ext rd rs1 imm len s = .next t) : SpaceOf i s t := by
  obtain ⟨v, -, h⟩ := andThen_next h
  exact writeF_spaceOf h

theorem withRounding_spaceOf {j : Instr} {rm : BitVec 3} {rd : FReg} {v : RoundMode → Word} {len : Nat}
    (h : withRounding j rm (fun mode => writeF rd (v mode) len s) = .next t) : SpaceOf i s t := by
  cases hm : roundMode rm with
  | some mode => rw [withRounding_some hm] at h; exact writeF_spaceOf h
  | none => rw [withRounding_none hm] at h; cases h

theorem memWrite_ok {u : State} {a v : Word} {n : Nat} (h : memWrite s a n v = .ok u) :
    s.writable a n = true ∧ u = { s with mem := s.mem.setBytes a.toNat (leBytes n v) } := by
  cases hw : s.writable a n with
  | true => rw [memWrite_of_writable v hw] at h; cases h; exact ⟨rfl, rfl⟩
  | false => rw [memWrite_miss v hw] at h; cases h

theorem storeWord_spaceOf {n : Nat} {v : Word} {rs1 : XReg} {imm : Word} {len : Nat} (hi : storesMemory i = true)
    (h : storeWord n v rs1 imm len s = .next t) : SpaceOf i s t := by
  obtain ⟨u, hu, h⟩ := andThen_next h
  obtain ⟨hw, rfl⟩ := memWrite_ok hu
  cases h
  exact .stored _ n v hi hw rfl rfl

theorem loadReserved_spaceOf {op : AtomicOp} {j : Instr} {w : ResvWidth} {ext : Word → Word} {rd rs1 : XReg}
    (h : loadReserved op j w ext rd rs1 s = .next t) : SpaceOf i s t := by
  obtain ⟨-, h⟩ := gated_next h
  obtain ⟨v, -, h⟩ := andThen_next h
  obtain ⟨hregions, hmem⟩ := writeX_keeps h
  exact .same hregions hmem

theorem storeConditional_spaceOf {op : AtomicOp} {j : Instr} {w : ResvWidth} {rd rs1 rs2 : XReg}
    (hi : storesMemory i = true) (h : storeConditional op j w rd rs1 rs2 s = .next t) : SpaceOf i s t := by
  obtain ⟨-, h⟩ := gated_next h
  split at h
  · obtain ⟨u, hu, h⟩ := andThen_next h
    obtain ⟨hw, rfl⟩ := memWrite_ok hu
    obtain ⟨hregions, hmem⟩ := writeX_keeps h
    exact .stored _ _ _ hi hw hregions hmem
  · obtain ⟨hregions, hmem⟩ := writeX_keeps h
    exact .same hregions hmem

theorem amo_spaceOf {op : AtomicOp} {j : Instr} {w : ResvWidth} {ext : Word → Word} {g : Word → Word → Word}
    {rd rs1 rs2 : XReg} (hi : storesMemory i = true) (h : amo op j w ext g rd rs1 rs2 s = .next t) :
    SpaceOf i s t := by
  obtain ⟨-, h⟩ := gated_next h
  obtain ⟨v, -, h⟩ := andThen_next h
  obtain ⟨u, hu, h⟩ := andThen_next h
  obtain ⟨hw, rfl⟩ := memWrite_ok hu
  obtain ⟨hregions, hmem⟩ := writeX_keeps h
  exact .stored _ _ _ hi hw hregions hmem

/-- Every instruction but ECALL that goes on does to memory and the region table what `SpaceOf` says. -/
theorem exec_spaceOf (hi : i ≠ .ecall) (h : exec i s = .next t) : SpaceOf i s t := by
  cases i with
  | ecall => exact absurd rfl hi
  | jal | cJ | jalr | cJr | cJalr => exact redirect_setX_spaceOf h
  | beq | bne | blt | bge | bltu | bgeu | cBeqz | cBnez => exact branch_spaceOf h
  | lb | lh | lw | ld | lbu | lhu | lwu | cLw | cLd | cLwsp | cLdsp => exact loadX_spaceOf h
  | flw | fld | cFld | cFldsp => exact loadF_spaceOf h
  | sb | sh | sw | sd | fsw | fsd | cFsd | cSw | cSd | cFsdsp | cSwsp | cSdsp => exact storeWord_spaceOf rfl h
  | lrW | lrD => exact loadReserved_spaceOf h
  | scW | scD => exact storeConditional_spaceOf rfl h
  | amoswapW | amoaddW | amoxorW | amoandW | amoorW | amominW | amomaxW | amominuW | amomaxuW
  | amoswapD | amoaddD | amoxorD | amoandD | amoorD | amominD | amomaxD | amominuD | amomaxuD =>
    exact amo_spaceOf rfl h
  | fence => exact advance_spaceOf h
  | fmvWX | fmvDX => exact writeF_spaceOf h
  | fcvtSD | fcvtDS => exact withRounding_spaceOf h
  | lui | auipc | addi | slti | sltiu | xori | ori | andi | slli | srli | srai | add | sub | sll | slt | sltu | xor
  | srl | sra | or | and | addiw | slliw | srliw | sraiw | addw | subw | sllw | srlw | sraw
  | mul | mulh | mulhsu | mulhu | div | divu | rem | remu | mulw | divw | divuw | remw | remuw
  | fmvXW | fmvXD | cAddi4spn | cNop | cAddi | cAddiw | cLi | cAddi16sp | cLui | cSrli | cSrai | cAndi | cSub | cXor
  | cOr | cAnd | cSubw | cAddw | cSlli | cMv | cAdd => exact writeX_spaceOf h
  | _ => cases h

end

/-! ### The frame of memory, regions and parameters (rules R209, R230, R110, R115) -/

theorem SpaceOf.regions {i : Instr} {s t : State} (h : SpaceOf i s t) : t.regions = s.regions := by
  cases h with
  | same hregions _ | stored _ _ _ _ _ hregions _ => exact hregions

theorem SpaceOf.sameBytes {i : Instr} {s t : State} (h : SpaceOf i s t) (hi : storesMemory i = false) :
    SameBytes s t := by
  cases h with
  | same _ hmem => exact fun a => congrArg (·.byte a) hmem
  | stored _ _ _ hs => rw [hi] at hs; cases hs

/-- Every instruction that goes on keeps the parameters, an ECALL among them. -/
theorem NextOf.cfg {s t : State} (h : NextOf s t) : t.cfg = s.cfg := by
  cases h with
  | pc | f | store => rfl
  | x | resv | scStore | amo => simp
  | ecall _ u hu =>
    obtain ⟨-, -, -, -, hcfg⟩ := syscall_sameBlock s.syscallCall { s with resv := none }
    rw [hu] at hcfg
    simpa using hcfg

/-- Settles O53, by what each instruction does to memory and the region table. -/
theorem onlyStoresChangeMemory : Obligations.OnlyStoresChangeMemory := by
  refine fun i s t h => ⟨fun hi => ?_, fun hi => (exec_spaceOf hi h).regions, (exec_nextOf h).cfg⟩
  have hne : i ≠ .ecall := by rintro rfl; cases hi
  exact (exec_spaceOf hne h).sameBytes hi

/-! ### Stores reach writable regions alone (rules R211, R213, R225) -/

/-- An admitted write lies in one writable region, as ranges of unbounded integers. -/
theorem State.writable_range {s : State} (hs : s.wf = true) {a : Word} {n : Nat} (hw : s.writable a n = true) :
    ∃ R ∈ s.regions, R.writable = true ∧ R.base.toNat ≤ a.toNat ∧ a.toNat + n ≤ R.base.toNat + R.length.toNat := by
  obtain ⟨htable, -, -⟩ := State.wf_iff.1 hs
  obtain ⟨R, hR, hlen, hwritable⟩ := State.writable_iff.1 hw
  obtain ⟨hmem, hcon⟩ := regionOf_some hR
  obtain ⟨hbase, -⟩ := (Region.contains_iff (tableWf_mem htable R hmem)).1 hcon
  rw [BitVec.toNat_sub_of_le (BitVec.le_def.2 hbase)] at hlen
  exact ⟨R, hmem, hwritable, hbase, by omega⟩

/-- Settles O54: the one store an instruction may do lies in a writable region, so it misses every byte outside them. -/
theorem readOnlyBytesKept : Obligations.ReadOnlyBytesKept := by
  intro i s t hs hi h a ha
  cases exec_spaceOf hi h with
  | same _ hmem => rw [hmem]
  | stored b n v _ hw _ hmem =>
    obtain ⟨R, hR, hwritable, hlo, hhi⟩ := State.writable_range hs hw
    have hout := ha R hR hwritable
    rw [hmem, Memory.byte_setBytes_outside _ _ (by rw [leBytes_length]; omega)]

end Sys2Proof.Machine
end

section
/-! PROOF. An admitted write reads back at the same address, truncated to the width read (rules R212, R213, R220). -/

namespace Sys2Proof.Machine

/-- Of the `n` bytes written, the lowest `m` read as the low bytes of the value written. -/
theorem Memory.bytes_setBytes_leBytes {mem : Memory} (h : mem.wf = true) (a : Nat) (v : Word) {m n : Nat} (hmn : m ≤ n) :
    (mem.setBytes a (leBytes n v)).bytes a m = leBytes m v := by
  have hsame : ∀ k, k < m →
      (mem.setBytes a (leBytes n v)).byte (a + k) = (mem.setBytes a (leBytes m v)).byte (a + k) := by
    intro k hk
    simp only [Memory.byte_setBytes h, leBytes_length, Nat.add_sub_cancel_left]
    rw [if_pos (by omega), if_pos (by omega), leBytes_getD n v k (by omega), leBytes_getD m v k hk]
  calc (mem.setBytes a (leBytes n v)).bytes a m
      = (mem.setBytes a (leBytes m v)).bytes a (leBytes m v).length := by
        rw [leBytes_length, Memory.bytes_congr hsame]
    _ = leBytes m v := Memory.bytes_setBytes h a _

/-- An access of fewer bytes at the same address is admitted too. -/
theorem State.readable_mono {s : State} {a : Word} {m n : Nat} (hmn : m ≤ n) (h : s.readable a n = true) :
    s.readable a m = true := by
  obtain ⟨R, hR, hlen⟩ := State.readable_iff.1 h
  exact State.readable_iff.2 ⟨R, hR, by omega⟩

/-- Admission for reading depends on nothing but the region table. -/
theorem State.readable_congr {s t : State} (h : t.regions = s.regions) {a : Word} {n : Nat} :
    t.readable a n = s.readable a n := by
  unfold State.readable
  rw [h]

/-- Settles O21: the read is admitted because the write was, and its bytes are the low bytes of the value written. -/
theorem writeThenReadBack : Obligations.WriteThenReadBack := by
  intro s t a n m v hs hmn _ h
  obtain ⟨hw, rfl⟩ := memWrite_ok h
  have hr : s.readable a m = true := State.readable_mono hmn (State.readable_of_writable hw)
  refine (memRead_of_readable ?_).trans ?_
  · exact (State.readable_congr rfl).trans hr
  · rw [State.value, Memory.bytes_setBytes_leBytes hs _ _ hmn, leValue_leBytes]

end Sys2Proof.Machine
end

section
/-! PROOF. What the region operations of the MMU answer (20_memory.md rules R201 to R208): translation, allocation,
deallocation and the registration of host memory. -/

namespace Sys2Proof.Machine

open Sys2Proof.Claims

/-! ### Translation (rules R201, R203) -/

theorem State.translate_iff {s : State} {a k : Word} {R : Region} :
    s.translate a = some (R, k) ↔ regionOf s.regions a = some R ∧ k = a - R.base := by
  unfold State.translate
  cases regionOf s.regions a with
  | none => simp
  | some Q =>
    simp only [Option.some.injEq, Prod.mk.injEq]
    constructor
    · rintro ⟨rfl, rfl⟩; exact ⟨rfl, rfl⟩
    · rintro ⟨rfl, rfl⟩; exact ⟨rfl, rfl⟩

/-- Two regions of a well-formed table that contain an address are one. -/
theorem contains_unique {rs : List Region} (h : tableWf rs = true) {P Q : Region} (hP : P ∈ rs) (hQ : Q ∈ rs) {a : Word}
    (hPa : P.contains a = true) (hQa : Q.contains a = true) : P = Q :=
  tableWf_unique h hP hQ ((Region.contains_iff (tableWf_mem h P hP)).1 hPa)
    ((Region.contains_iff (tableWf_mem h Q hQ)).1 hQa)

/-- In a well-formed table the scan finds the region that contains the address. -/
theorem regionOf_iff {rs : List Region} (h : tableWf rs = true) {a : Word} {R : Region} :
    regionOf rs a = some R ↔ R ∈ rs ∧ R.contains a = true := by
  refine ⟨regionOf_some, fun ⟨hR, hRa⟩ => ?_⟩
  cases hQ : regionOf rs a with
  | none => exact absurd hRa (List.find?_eq_none.1 hQ R hR)
  | some Q =>
    obtain ⟨hQm, hQa⟩ := regionOf_some hQ
    rw [contains_unique h hQm hR hQa hRa]

/-- Settles O56: the scan finds the one region that contains the address. -/
theorem translateHitsOneRegion : Obligations.TranslateHitsOneRegion := by
  intro s a k R hs
  obtain ⟨htable, -, -⟩ := State.wf_iff.1 hs
  refine ⟨?_, fun Q hQ hR hQa hRa => contains_unique htable hQ hR hQa hRa⟩
  rw [State.translate_iff, regionOf_iff htable]
  constructor
  · rintro ⟨⟨hR, hRa⟩, hk⟩
    obtain ⟨hlo, hhi⟩ := (Region.contains_iff (tableWf_mem htable R hR)).1 hRa
    exact ⟨hR, hlo, hhi, hk⟩
  · rintro ⟨hR, hlo, hhi, hk⟩
    exact ⟨⟨hR, (Region.contains_iff (tableWf_mem htable R hR)).2 ⟨hlo, hhi⟩⟩, hk⟩

/-! ### Free ranges (rules R206, R207) -/

/-- A range that is not empty is free exactly when every region lies below or above it. -/
theorem rangeFree_iff_disjoint {rs : List Region} {lo n : Nat} (hn : 0 < n) :
    rangeFree rs lo n = true ↔ ∀ R ∈ rs, R.base.toNat + R.length.toNat ≤ lo ∨ lo + n ≤ R.base.toNat := by
  rw [rangeFree_iff]
  unfold Region.limit
  refine forall₂_congr fun R _ => ?_
  omega

theorem Memory.byte_clear_outside (m : Memory) {lo n x : Nat} (h : x < lo ∨ lo + n ≤ x) :
    (m.clear lo (lo + n)).byte x = m.byte x := by
  rw [Memory.byte_clear, if_neg (by omega)]

/-! ### Allocation (rules R204 to R206, R12) -/

theorem allocate_none {n : Word} {stack : Bool} {s : State} : allocate n stack none s = .error .resourceError := by
  simp only [allocate, ite_self]

/-- The answer of an allocation, by the one condition that decides it. -/
theorem allocate_some {n b : Word} {stack : Bool} {s : State} : allocate n stack (some b) s =
    if n ≠ 0 ∧ roundUp s.cfg n.toNat < 2 ^ 64 ∧ legalBase s b (roundUp s.cfg n.toNat) = true then
      .ok (b, { s with
        regions := insertRegion
          { base := b, length := BitVec.ofNat 64 (roundUp s.cfg n.toNat), writable := true, owned := true } s.regions
        mem := s.mem.clear b.toNat (b.toNat + roundUp s.cfg n.toNat) })
    else .error .resourceError := by
  simp only [allocate]
  by_cases hn : n = 0
  · rw [if_pos hn, if_neg fun h => h.1 hn]
  · by_cases hlt : roundUp s.cfg n.toNat < 2 ^ 64
    · rw [if_neg hn, if_neg (Nat.not_le.2 hlt)]
      simp only [ne_eq, hn, not_false_eq_true, hlt, true_and]
    · rw [if_neg hn, if_pos (Nat.not_lt.1 hlt), if_neg fun h => hlt h.2.1]

theorem roundedLength_eq (s : State) (n : Word) : roundedLength s n = roundUp s.cfg n.toNat := by
  unfold roundedLength roundUp pageSize guestPageSize
  rw [Nat.add_sub_assoc (by omega)]

theorem roundedLength_pos {s : State} {n : Word} (h : n ≠ 0) : 0 < roundedLength s n := by
  rw [roundedLength_eq]
  exact roundUp_pos (Nat.pos_of_ne_zero fun h0 => h (BitVec.eq_of_toNat_eq h0))

theorem legalBase_iff {s : State} {b : Word} {n : Nat} (hn : 0 < n) :
    legalBase s b n = true ↔ b.toNat % max s.cfg.hostPageSize 4096 = 0 ∧ b.toNat + n ≤ 2 ^ 64 ∧
      ∀ R ∈ s.regions, R.base.toNat + R.length.toNat ≤ b.toNat ∨ b.toNat + n ≤ R.base.toNat := by
  simp only [legalBase, Bool.and_eq_true, decide_eq_true_eq, rangeFree_iff_disjoint hn]
  rw [and_right_comm, and_assoc]
  rfl

/-- Settles O57: allocation succeeds exactly on a legal base, and clears the range of the region it adds. -/
theorem allocateResults : Obligations.AllocateResults := by
  intro s n b stack
  refine ⟨allocate_none, ?_⟩
  rw [allocate_some, ← roundedLength_eq]
  split
  · next h =>
    obtain ⟨hn, hlt, hpage, htop, hfree⟩ := h
    rw [if_pos ⟨hn, hlt, (legalBase_iff (roundedLength_pos hn)).2 ⟨hpage, htop, hfree⟩⟩]
    refine ⟨_, _, rfl, rfl, fun Q => mem_insertRegion, fun a hlo hhi => ?_, fun a ha => Memory.byte_clear_outside _ ha,
      fun _ => rfl, fun _ => rfl, rfl, rfl⟩
    exact (Memory.byte_clear _ _ _ _).trans (if_pos ⟨hlo, hhi⟩)
  · next h =>
    rw [if_neg]
    rintro ⟨hn, hlt, hlegal⟩
    exact h ⟨hn, hlt, (legalBase_iff (roundedLength_pos hn)).1 hlegal⟩

/-! ### Deallocation (rule R207) -/

theorem mem_deallocate_regions {s : State} {a n : Word} {R : Region} :
    R ∈ (deallocate a n s).regions ↔ R ∈ s.regions ∧ ¬R.meets a.toNat n.toNat = true := by
  simp only [deallocate, List.mem_filter, Bool.not_eq_true', Bool.not_eq_true]

/-- Settles O58: the bytes forgotten are those of the regions removed. -/
theorem deallocateResults : Obligations.DeallocateResults := by
  intro s a n
  refine ⟨fun R => ?_, fun x hx => ?_, fun _ => rfl, fun _ => rfl, rfl, rfl⟩
  · rw [mem_deallocate_regions, Region.meets_iff]
    rfl
  · refine (Memory.byte_clearRegions _ _ _).trans (if_neg ?_)
    rintro ⟨R, hR, hlo, hhi⟩
    obtain ⟨hmem, hmeets⟩ := List.mem_filter.1 hR
    obtain ⟨-, hkept⟩ := mem_deallocate_regions.1 (hx R hmem hlo hhi)
    exact hkept hmeets

/-! ### Registration of host memory (rule R208) -/

/-- Settles O59: registration succeeds exactly on a free range that does not wrap, and writes the host's bytes there. -/
theorem registerResults : Obligations.RegisterResults := by
  intro s b writable bytes hs hlen
  unfold registerHostMemory
  split
  · next h =>
    obtain ⟨hne, htop, hfree⟩ := h
    rw [if_neg (by omega), if_pos ⟨(rangeFree_iff_disjoint (by omega)).2 hfree, htop⟩]
    refine ⟨_, _, rfl, rfl, fun Q => mem_insertRegion, fun k hk => ?_, fun a ha => ?_, fun _ => rfl, fun _ => rfl, rfl,
      rfl⟩
    · rw [Memory.byte_setBytes (Memory.wf_clear hs _ _), if_pos (by omega), Nat.add_sub_cancel_left]
    · rw [Memory.byte_setBytes_outside _ _ ha, Memory.byte_clear_outside _ ha]
  · next h =>
    by_cases hne : bytes.length = 0
    · rw [if_pos (.inl hne)]
    · rw [if_neg (by omega), if_neg]
      rintro ⟨hfree, htop⟩
      exact h ⟨hne, htop, (rangeFree_iff_disjoint (by omega)).1 hfree⟩

end Sys2Proof.Machine
end

section
/-! PROOF. What the decoder reads from the encoder's formats beside the fields of Laws/Encoding.lean: an immediate in
its range comes back from the places a format puts its bits in, and so do the fields of the compressed formats
(30_encoding.md rules R305, R310 to R314, R401, R410 to R451). -/

namespace Sys2Proof

open BitVec (getElem_extractLsb' getLsbD_extractLsb' getLsbD_signExtend append_zero_width extractLsb'_eq_self
  extractLsb'_append_eq_of_le extractLsb'_append_eq_of_add_le extractLsb'_append_extractLsb'_eq_extractLsb')

/-! ### Fields of bit vectors -/

theorem extractLsb'_extractLsb' {n : Nat} (w : BitVec n) {s l t m : Nat} (h : s + l ≤ m) :
    (w.extractLsb' t m).extractLsb' s l = w.extractLsb' (t + s) l := by
  ext i hi
  rw [getElem_extractLsb', getElem_extractLsb', getLsbD_extractLsb', decide_eq_true (by omega), Bool.true_and,
    Nat.add_assoc]

theorem extractLsb'_signExtend {n m : Nat} (x : BitVec n) {s l : Nat} (h : s + l ≤ n) (hm : n ≤ m) :
    (x.signExtend m).extractLsb' s l = x.extractLsb' s l := by
  ext i hi
  rw [getElem_extractLsb', getElem_extractLsb', getLsbD_signExtend, if_pos (by omega), decide_eq_true (by omega),
    Bool.true_and]

/-! ### Immediates and registers from their fields -/

theorem signExtend_of_isSext {lo n : Nat} {imm : Word} (h : isSext lo n imm = true) :
    (imm.extractLsb' lo n ++ 0#lo).signExtend 64 = imm :=
  (beq_iff_eq.1 h).symm

theorem signExtend_of_isSext_zero {n : Nat} {imm : Word} (h : isSext 0 n imm = true) :
    (imm.extractLsb' 0 n).signExtend 64 = imm := by
  have himm := signExtend_of_isSext h
  rwa [append_zero_width] at himm

theorem setWidth_of_isZext {lo n : Nat} {imm : Word} (h : isZext lo n imm = true) :
    (imm.extractLsb' lo n ++ 0#lo).setWidth 64 = imm :=
  (beq_iff_eq.1 h).symm

theorem cReg_of_isCReg {r : BitVec 5} (h : isCReg r = true) : cReg (r.extractLsb' 0 3) = r := by
  revert r
  decide

/-! ### The fields of the full formats that Laws/Encoding.lean leaves out -/

@[simp] theorem fmtFence_fields (fm pred succ : BitVec 4) (rs1 : BitVec 5) (funct3 : BitVec 3) (rd : BitVec 5)
    (op : BitVec 7) :
    (fmtFence fm pred succ rs1 funct3 rd op).extractLsb' 28 4 = fm ∧
    (fmtFence fm pred succ rs1 funct3 rd op).extractLsb' 24 4 = pred ∧
    (fmtFence fm pred succ rs1 funct3 rd op).extractLsb' 20 4 = succ := by
  simp (disch := omega) only [fmtFence, extractLsb'_append_eq_of_le, extractLsb'_append_eq_of_add_le,
    Nat.reduceSub, extractLsb'_eq_self, and_self]

theorem immI_fmtI {imm : Word} (h : isSext 0 12 imm = true) (rs1 : BitVec 5) (funct3 : BitVec 3) (rd : BitVec 5)
    (op : BitVec 7) : immI (fmtI imm rs1 funct3 rd op) = imm := by
  simp (disch := omega) only [immI, fmtI, extractLsb'_append_eq_of_le, extractLsb'_extractLsb']
  exact signExtend_of_isSext_zero h

theorem immS_fmtS {imm : Word} (h : isSext 0 12 imm = true) (rs2 rs1 : BitVec 5) (funct3 : BitVec 3) (op : BitVec 7) :
    immS (fmtS imm rs2 rs1 funct3 op) = imm := by
  simp (disch := omega) only [immS, fmtS, extractLsb'_append_eq_of_le, extractLsb'_append_eq_of_add_le,
    extractLsb'_extractLsb', extractLsb'_append_extractLsb'_eq_extractLsb']
  exact signExtend_of_isSext_zero h

theorem immB_fmtB {imm : Word} (h : isSext 1 12 imm = true) (rs2 rs1 : BitVec 5) (funct3 : BitVec 3) (op : BitVec 7) :
    immB (fmtB imm rs2 rs1 funct3 op) = imm := by
  simp (disch := omega) only [immB, fmtB, extractLsb'_append_eq_of_le, extractLsb'_append_eq_of_add_le,
    extractLsb'_extractLsb', extractLsb'_append_extractLsb'_eq_extractLsb']
  exact signExtend_of_isSext h

theorem immU_fmtU {imm : Word} (h : isSext 12 20 imm = true) (rd : BitVec 5) (op : BitVec 7) :
    immU (fmtU imm rd op) = imm := by
  simp (disch := omega) only [immU, fmtU, extractLsb'_append_eq_of_le, extractLsb'_extractLsb']
  exact signExtend_of_isSext h

theorem immJ_fmtJ {imm : Word} (h : isSext 1 20 imm = true) (rd : BitVec 5) (op : BitVec 7) :
    immJ (fmtJ imm rd op) = imm := by
  simp (disch := omega) only [immJ, fmtJ, extractLsb'_append_eq_of_le, extractLsb'_append_eq_of_add_le,
    extractLsb'_extractLsb', extractLsb'_append_extractLsb'_eq_extractLsb']
  exact signExtend_of_isSext h

/-! ### The fields of the compressed formats -/

@[simp] theorem fmtCR_fields (funct4 : BitVec 4) (r rs2 : BitVec 5) :
    (fmtCR funct4 r rs2).extractLsb' 13 3 = funct4.extractLsb' 1 3 ∧
    (fmtCR funct4 r rs2).extractLsb' 12 1 = funct4.extractLsb' 0 1 ∧
    cRd (fmtCR funct4 r rs2) = r ∧ cRs2 (fmtCR funct4 r rs2) = rs2 := by
  simp (disch := omega) only [fmtCR, cRd, cRs2, extractLsb'_append_eq_of_le, extractLsb'_append_eq_of_add_le,
    Nat.reduceSub, extractLsb'_eq_self, and_self]

@[simp] theorem fmtCI_fields (funct3 : BitVec 3) (hi : BitVec 1) (r lo : BitVec 5) (op : BitVec 2) :
    (fmtCI funct3 hi r lo op).extractLsb' 13 3 = funct3 ∧ cRd (fmtCI funct3 hi r lo op) = r := by
  simp (disch := omega) only [fmtCI, cRd, extractLsb'_append_eq_of_le, extractLsb'_append_eq_of_add_le,
    Nat.reduceSub, extractLsb'_eq_self, and_self]

@[simp] theorem fmtCSS_fields (funct3 : BitVec 3) (imm : BitVec 6) (rs2 : BitVec 5) :
    (fmtCSS funct3 imm rs2).extractLsb' 13 3 = funct3 ∧ cRs2 (fmtCSS funct3 imm rs2) = rs2 := by
  simp (disch := omega) only [fmtCSS, cRs2, extractLsb'_append_eq_of_le, extractLsb'_append_eq_of_add_le,
    Nat.reduceSub, extractLsb'_eq_self, and_self]

@[simp] theorem fmtCIW_fields (funct3 : BitVec 3) (imm : BitVec 8) (rd : BitVec 5) :
    (fmtCIW funct3 imm rd).extractLsb' 13 3 = funct3 ∧
    cRs2' (fmtCIW funct3 imm rd) = cReg (rd.extractLsb' 0 3) := by
  simp (disch := omega) only [fmtCIW, cRs2', extractLsb'_append_eq_of_le, extractLsb'_append_eq_of_add_le,
    Nat.reduceSub, extractLsb'_eq_self, and_self]

@[simp] theorem fmtCL_fields (funct3 hi : BitVec 3) (rs1 : BitVec 5) (lo : BitVec 2) (r : BitVec 5) :
    (fmtCL funct3 hi rs1 lo r).extractLsb' 13 3 = funct3 ∧
    cRs1' (fmtCL funct3 hi rs1 lo r) = cReg (rs1.extractLsb' 0 3) ∧
    cRs2' (fmtCL funct3 hi rs1 lo r) = cReg (r.extractLsb' 0 3) := by
  simp (disch := omega) only [fmtCL, cRs1', cRs2', extractLsb'_append_eq_of_le, extractLsb'_append_eq_of_add_le,
    Nat.reduceSub, extractLsb'_eq_self, and_self]

@[simp] theorem fmtCA_fields (funct6 : BitVec 6) (rd : BitVec 5) (funct2 : BitVec 2) (rs2 : BitVec 5) :
    (fmtCA funct6 rd funct2 rs2).extractLsb' 13 3 = funct6.extractLsb' 3 3 ∧
    (fmtCA funct6 rd funct2 rs2).extractLsb' 12 1 = funct6.extractLsb' 2 1 ∧
    (fmtCA funct6 rd funct2 rs2).extractLsb' 10 2 = funct6.extractLsb' 0 2 ∧
    (fmtCA funct6 rd funct2 rs2).extractLsb' 5 2 = funct2 ∧
    cRs1' (fmtCA funct6 rd funct2 rs2) = cReg (rd.extractLsb' 0 3) ∧
    cRs2' (fmtCA funct6 rd funct2 rs2) = cReg (rs2.extractLsb' 0 3) := by
  simp (disch := omega) only [fmtCA, cRs1', cRs2', extractLsb'_append_eq_of_le, extractLsb'_append_eq_of_add_le,
    Nat.reduceSub, extractLsb'_eq_self, and_self]

@[simp] theorem fmtCB_fields (funct3 hi : BitVec 3) (r lo : BitVec 5) :
    (fmtCB funct3 hi r lo).extractLsb' 13 3 = funct3 ∧
    cRs1' (fmtCB funct3 hi r lo) = cReg (r.extractLsb' 0 3) := by
  simp (disch := omega) only [fmtCB, cRs1', extractLsb'_append_eq_of_le, extractLsb'_append_eq_of_add_le,
    Nat.reduceSub, extractLsb'_eq_self, and_self]

@[simp] theorem fmtCB_funct2 (funct3 : BitVec 3) (hi : BitVec 1) (funct2 : BitVec 2) (r lo : BitVec 5) :
    (fmtCB funct3 (hi ++ funct2) r lo).extractLsb' 10 2 = funct2 := by
  simp (disch := omega) only [fmtCB, extractLsb'_append_eq_of_le, extractLsb'_append_eq_of_add_le, Nat.reduceSub,
    extractLsb'_eq_self]

@[simp] theorem fmtCJ_funct3 (funct3 : BitVec 3) (target : BitVec 11) :
    (fmtCJ funct3 target).extractLsb' 13 3 = funct3 := by
  simp (disch := omega) only [fmtCJ, extractLsb'_append_eq_of_le, Nat.reduceSub, extractLsb'_eq_self]

/-! ### Shift amounts and compressed immediates read back from the formats that hold them (rules R410 to R451) -/

@[simp] theorem cShamt_fmtCI (funct3 : BitVec 3) (shamt : BitVec 6) (r : BitVec 5) (op : BitVec 2) :
    cShamt (fmtCI funct3 (shamt.extractLsb' 5 1) r (shamt.extractLsb' 0 5) op) = shamt := by
  simp (disch := omega) only [cShamt, fmtCI, extractLsb'_append_eq_of_le, extractLsb'_append_eq_of_add_le,
    extractLsb'_extractLsb', extractLsb'_append_extractLsb'_eq_extractLsb']
  exact extractLsb'_eq_self

@[simp] theorem cShamt_fmtCB (funct3 : BitVec 3) (shamt : BitVec 6) (funct2 : BitVec 2) (r : BitVec 5) :
    cShamt (fmtCB funct3 (shamt.extractLsb' 5 1 ++ funct2) r (shamt.extractLsb' 0 5)) = shamt := by
  simp (disch := omega) only [cShamt, fmtCB, extractLsb'_append_eq_of_le, extractLsb'_append_eq_of_add_le,
    extractLsb'_extractLsb', extractLsb'_append_extractLsb'_eq_extractLsb']
  exact extractLsb'_eq_self

theorem cImm6_fmtCI {imm : Word} (h : isSext 0 6 imm = true) (funct3 : BitVec 3) (r : BitVec 5) (op : BitVec 2) :
    cImm6 (fmtCI funct3 (imm.extractLsb' 5 1) r (imm.extractLsb' 0 5) op) = imm := by
  simp (disch := omega) only [cImm6, fmtCI, extractLsb'_append_eq_of_le, extractLsb'_append_eq_of_add_le,
    extractLsb'_extractLsb', extractLsb'_append_extractLsb'_eq_extractLsb']
  exact signExtend_of_isSext_zero h

theorem cImm16sp_fmtCI {imm : Word} (h : isSext 4 6 imm = true) (funct3 : BitVec 3) (r : BitVec 5) (op : BitVec 2) :
    cImm16sp (fmtCI funct3 (imm.extractLsb' 9 1) r
      (imm.extractLsb' 4 1 ++ imm.extractLsb' 6 1 ++ imm.extractLsb' 7 2 ++ imm.extractLsb' 5 1) op) = imm := by
  simp (disch := omega) only [cImm16sp, fmtCI, extractLsb'_append_eq_of_le, extractLsb'_append_eq_of_add_le,
    extractLsb'_extractLsb', extractLsb'_append_extractLsb'_eq_extractLsb']
  exact signExtend_of_isSext h

theorem cImmLui_fmtCI {imm : Word} (h : isSext 12 6 imm = true) (funct3 : BitVec 3) (r : BitVec 5) (op : BitVec 2) :
    cImmLui (fmtCI funct3 (imm.extractLsb' 17 1) r (imm.extractLsb' 12 5) op) = imm := by
  simp (disch := omega) only [cImmLui, fmtCI, extractLsb'_append_eq_of_le, extractLsb'_append_eq_of_add_le,
    extractLsb'_extractLsb', extractLsb'_append_extractLsb'_eq_extractLsb']
  exact signExtend_of_isSext h

theorem cImmLdsp_fmtCI {imm : Word} (h : isZext 3 6 imm = true) (funct3 : BitVec 3) (r : BitVec 5) (op : BitVec 2) :
    cImmLdsp (fmtCI funct3 (imm.extractLsb' 5 1) r (imm.extractLsb' 3 2 ++ imm.extractLsb' 6 3) op) = imm := by
  simp (disch := omega) only [cImmLdsp, fmtCI, extractLsb'_append_eq_of_le, extractLsb'_append_eq_of_add_le,
    extractLsb'_extractLsb', extractLsb'_append_extractLsb'_eq_extractLsb']
  exact setWidth_of_isZext h

theorem cImmLwsp_fmtCI {imm : Word} (h : isZext 2 6 imm = true) (funct3 : BitVec 3) (r : BitVec 5) (op : BitVec 2) :
    cImmLwsp (fmtCI funct3 (imm.extractLsb' 5 1) r (imm.extractLsb' 2 3 ++ imm.extractLsb' 6 2) op) = imm := by
  simp (disch := omega) only [cImmLwsp, fmtCI, extractLsb'_append_eq_of_le, extractLsb'_append_eq_of_add_le,
    extractLsb'_extractLsb', extractLsb'_append_extractLsb'_eq_extractLsb']
  exact setWidth_of_isZext h

theorem cImmSdsp_fmtCSS {imm : Word} (h : isZext 3 6 imm = true) (funct3 : BitVec 3) (rs2 : BitVec 5) :
    cImmSdsp (fmtCSS funct3 (imm.extractLsb' 3 3 ++ imm.extractLsb' 6 3) rs2) = imm := by
  simp (disch := omega) only [cImmSdsp, fmtCSS, extractLsb'_append_eq_of_le, extractLsb'_append_eq_of_add_le,
    extractLsb'_extractLsb', extractLsb'_append_extractLsb'_eq_extractLsb']
  exact setWidth_of_isZext h

theorem cImmSwsp_fmtCSS {imm : Word} (h : isZext 2 6 imm = true) (funct3 : BitVec 3) (rs2 : BitVec 5) :
    cImmSwsp (fmtCSS funct3 (imm.extractLsb' 2 4 ++ imm.extractLsb' 6 2) rs2) = imm := by
  simp (disch := omega) only [cImmSwsp, fmtCSS, extractLsb'_append_eq_of_le, extractLsb'_append_eq_of_add_le,
    extractLsb'_extractLsb', extractLsb'_append_extractLsb'_eq_extractLsb']
  exact setWidth_of_isZext h

theorem cImm4spn_fmtCIW {imm : Word} (h : isZext 2 8 imm = true) (funct3 : BitVec 3) (rd : BitVec 5) :
    cImm4spn (fmtCIW funct3
      (imm.extractLsb' 4 2 ++ imm.extractLsb' 6 4 ++ imm.extractLsb' 2 1 ++ imm.extractLsb' 3 1) rd) = imm := by
  simp (disch := omega) only [cImm4spn, fmtCIW, extractLsb'_append_eq_of_le, extractLsb'_append_eq_of_add_le,
    extractLsb'_extractLsb', extractLsb'_append_extractLsb'_eq_extractLsb']
  exact setWidth_of_isZext h

theorem cImmW_fmtCL {imm : Word} (h : isZext 2 5 imm = true) (funct3 : BitVec 3) (rs1 r : BitVec 5) :
    cImmW (fmtCL funct3 (imm.extractLsb' 3 3) rs1 (imm.extractLsb' 2 1 ++ imm.extractLsb' 6 1) r) = imm := by
  simp (disch := omega) only [cImmW, fmtCL, extractLsb'_append_eq_of_le, extractLsb'_append_eq_of_add_le,
    extractLsb'_extractLsb', extractLsb'_append_extractLsb'_eq_extractLsb']
  exact setWidth_of_isZext h

theorem cImmD_fmtCL {imm : Word} (h : isZext 3 5 imm = true) (funct3 : BitVec 3) (rs1 r : BitVec 5) :
    cImmD (fmtCL funct3 (imm.extractLsb' 3 3) rs1 (imm.extractLsb' 6 2) r) = imm := by
  simp (disch := omega) only [cImmD, fmtCL, extractLsb'_append_eq_of_le, extractLsb'_append_eq_of_add_le,
    extractLsb'_extractLsb', extractLsb'_append_extractLsb'_eq_extractLsb']
  exact setWidth_of_isZext h

theorem cImm6_fmtCB {imm : Word} (h : isSext 0 6 imm = true) (funct3 : BitVec 3) (funct2 : BitVec 2) (r : BitVec 5) :
    cImm6 (fmtCB funct3 (imm.extractLsb' 5 1 ++ funct2) r (imm.extractLsb' 0 5)) = imm := by
  simp (disch := omega) only [cImm6, fmtCB, extractLsb'_append_eq_of_le, extractLsb'_append_eq_of_add_le,
    extractLsb'_extractLsb', extractLsb'_append_extractLsb'_eq_extractLsb']
  exact signExtend_of_isSext_zero h

theorem cImmB_fmtCB {imm : Word} (h : isSext 1 8 imm = true) (funct3 : BitVec 3) (r : BitVec 5) :
    cImmB (fmtCB funct3 (imm.extractLsb' 8 1 ++ imm.extractLsb' 3 2) r
      (imm.extractLsb' 6 2 ++ imm.extractLsb' 1 2 ++ imm.extractLsb' 5 1)) = imm := by
  simp (disch := omega) only [cImmB, fmtCB, extractLsb'_append_eq_of_le, extractLsb'_append_eq_of_add_le,
    extractLsb'_extractLsb', extractLsb'_append_extractLsb'_eq_extractLsb']
  exact signExtend_of_isSext h

theorem cImmJ_fmtCJ {imm : Word} (h : isSext 1 11 imm = true) (funct3 : BitVec 3) :
    cImmJ (fmtCJ funct3 (imm.extractLsb' 11 1 ++ imm.extractLsb' 4 1 ++ imm.extractLsb' 8 2 ++ imm.extractLsb' 10 1 ++
      imm.extractLsb' 6 1 ++ imm.extractLsb' 7 1 ++ imm.extractLsb' 1 3 ++ imm.extractLsb' 5 1)) = imm := by
  simp (disch := omega) only [cImmJ, fmtCJ, extractLsb'_append_eq_of_le, extractLsb'_append_eq_of_add_le,
    extractLsb'_extractLsb', extractLsb'_append_extractLsb'_eq_extractLsb']
  exact signExtend_of_isSext h

end Sys2Proof
end

section
/-! PROOF. Decoding the encoding of a well-formed instruction gives it back, what the decoder answers for a window of
bytes, and which words it refuses (30_encoding.md rules R300 to R304, R341, R402). -/

namespace Sys2Proof

/-! ### Words -/

/-- The decoder reads a 32-bit encoding back, group by group of the major opcode. -/
theorem decode32_of_encode {i : Instr} {w : BitVec 32} (hi : i.WellFormed) (h : encode i = .full w) :
    decode32 w = some i := by
  cases i
  case lui | auipc =>
    cases h
    rw [decode32, opcodeOf_fmtU, rdOf_fmtU, immU_fmtU hi]
    rfl
  case jal =>
    cases h
    rw [decode32, opcodeOf_fmtJ, rdOf_fmtJ, immJ_fmtJ hi]
    rfl
  case jalr =>
    cases h
    rw [decode32, opcodeOf_fmtI]
    show decodeJalr _ = _
    rw [decodeJalr, funct3Of_fmtI, rdOf_fmtI, rs1Of_fmtI, immI_fmtI hi]
    rfl
  case beq | bne | blt | bge | bltu | bgeu =>
    cases h
    rw [decode32, opcodeOf_fmtB]
    show decodeBranch _ = _
    rw [decodeBranch, funct3Of_fmtB, rs1Of_fmtB, rs2Of_fmtB, immB_fmtB hi]
    rfl
  case lb | lh | lw | ld | lbu | lhu | lwu =>
    cases h
    rw [decode32, opcodeOf_fmtI]
    show decodeLoad _ = _
    rw [decodeLoad, funct3Of_fmtI, rdOf_fmtI, rs1Of_fmtI, immI_fmtI hi]
    rfl
  case sb | sh | sw | sd =>
    cases h
    rw [decode32, opcodeOf_fmtS]
    show decodeStore _ = _
    rw [decodeStore, funct3Of_fmtS, rs1Of_fmtS, rs2Of_fmtS, immS_fmtS hi]
    rfl
  case addi | slti | sltiu | xori | ori | andi =>
    cases h
    rw [decode32, opcodeOf_fmtI]
    show decodeOpImm _ = _
    rw [decodeOpImm, funct3Of_fmtI, rdOf_fmtI, rs1Of_fmtI, immI_fmtI hi]
    rfl
  case slli | srli | srai =>
    cases h
    rw [decode32, opcodeOf_fmtShift64]
    show decodeOpImm _ = _
    rw [decodeOpImm, funct3Of_fmtShift64, funct6Of_fmtShift64, rdOf_fmtShift64, rs1Of_fmtShift64, shamt6Of_fmtShift64]
    rfl
  case add | sub | sll | slt | sltu | xor | srl | sra | or | and | mul | mulh | mulhsu | mulhu | div | divu
      | rem | remu =>
    cases h
    rw [decode32, opcodeOf_fmtR]
    show decodeOp _ = _
    rw [decodeOp, funct7Of_fmtR, funct3Of_fmtR, rdOf_fmtR, rs1Of_fmtR, rs2Of_fmtR]
    rfl
  case fence =>
    cases h
    rw [decode32, opcodeOf_fmtFence]
    show decodeMiscMem _ = _
    simp [decodeMiscMem]
  case ecall | ebreak =>
    cases h
    rfl
  case addiw =>
    cases h
    rw [decode32, opcodeOf_fmtI]
    show decodeOpImm32 _ = _
    rw [decodeOpImm32, funct3Of_fmtI, rdOf_fmtI, rs1Of_fmtI, immI_fmtI hi]
    rfl
  case slliw | srliw | sraiw =>
    cases h
    rw [decode32, opcodeOf_fmtR]
    show decodeOpImm32 _ = _
    rw [decodeOpImm32, funct3Of_fmtR, funct7Of_fmtR, rdOf_fmtR, rs1Of_fmtR, rs2Of_fmtR]
    rfl
  case addw | subw | sllw | srlw | sraw | mulw | divw | divuw | remw | remuw =>
    cases h
    rw [decode32, opcodeOf_fmtR]
    show decodeOp32 _ = _
    rw [decodeOp32, funct7Of_fmtR, funct3Of_fmtR, rdOf_fmtR, rs1Of_fmtR, rs2Of_fmtR]
    rfl
  case lrW | scW | amoswapW | amoaddW | amoxorW | amoandW | amoorW | amominW | amomaxW | amominuW | amomaxuW =>
    cases h
    rw [decode32, opcodeOf_fmtAmo]
    show decodeAmo _ = _
    rw [decodeAmo, funct3Of_fmtAmo]
    show decodeAmoW _ = _
    rw [decodeAmoW, funct5Of_fmtAmo, rdOf_fmtAmo, rs1Of_fmtAmo, rs2Of_fmtAmo, aqOf_fmtAmo, rlOf_fmtAmo]
    rfl
  case lrD | scD | amoswapD | amoaddD | amoxorD | amoandD | amoorD | amominD | amomaxD | amominuD | amomaxuD =>
    cases h
    rw [decode32, opcodeOf_fmtAmo]
    show decodeAmo _ = _
    rw [decodeAmo, funct3Of_fmtAmo]
    show decodeAmoD _ = _
    rw [decodeAmoD, funct5Of_fmtAmo, rdOf_fmtAmo, rs1Of_fmtAmo, rs2Of_fmtAmo, aqOf_fmtAmo, rlOf_fmtAmo]
    rfl
  case flw | fld =>
    cases h
    rw [decode32, opcodeOf_fmtI]
    show decodeLoadFp _ = _
    rw [decodeLoadFp, funct3Of_fmtI, rdOf_fmtI, rs1Of_fmtI, immI_fmtI hi]
    rfl
  case fsw | fsd =>
    cases h
    rw [decode32, opcodeOf_fmtS]
    show decodeStoreFp _ = _
    rw [decodeStoreFp, funct3Of_fmtS, rs1Of_fmtS, rs2Of_fmtS, immS_fmtS hi]
    rfl
  case fmaddS | fmaddD =>
    cases h
    rw [decode32, opcodeOf_fmtR4]
    show decodeMadd _ = _
    rw [decodeMadd, funct2Of_fmtR4, rdOf_fmtR4, rs1Of_fmtR4, rs2Of_fmtR4, funct5Of_fmtR4, funct3Of_fmtR4]
    rfl
  case fmsubS | fmsubD =>
    cases h
    rw [decode32, opcodeOf_fmtR4]
    show decodeMsub _ = _
    rw [decodeMsub, funct2Of_fmtR4, rdOf_fmtR4, rs1Of_fmtR4, rs2Of_fmtR4, funct5Of_fmtR4, funct3Of_fmtR4]
    rfl
  case fnmsubS | fnmsubD =>
    cases h
    rw [decode32, opcodeOf_fmtR4]
    show decodeNmsub _ = _
    rw [decodeNmsub, funct2Of_fmtR4, rdOf_fmtR4, rs1Of_fmtR4, rs2Of_fmtR4, funct5Of_fmtR4, funct3Of_fmtR4]
    rfl
  case fnmaddS | fnmaddD =>
    cases h
    rw [decode32, opcodeOf_fmtR4]
    show decodeNmadd _ = _
    rw [decodeNmadd, funct2Of_fmtR4, rdOf_fmtR4, rs1Of_fmtR4, rs2Of_fmtR4, funct5Of_fmtR4, funct3Of_fmtR4]
    rfl
  case faddS | fsubS | fmulS | fdivS | fsqrtS | fsgnjS | fsgnjnS | fsgnjxS | fminS | fmaxS | fcvtWS | fcvtWUS | fcvtLS
      | fcvtLUS | fcvtSW | fcvtSWU | fcvtSL | fcvtSLU | feqS | fltS | fleS | fclassS | fmvXW | fmvWX | faddD | fsubD
      | fmulD | fdivD | fsqrtD | fsgnjD | fsgnjnD | fsgnjxD | fminD | fmaxD | fcvtWD | fcvtWUD | fcvtLD | fcvtLUD
      | fcvtDW | fcvtDWU | fcvtDL | fcvtDLU | feqD | fltD | fleD | fclassD | fmvXD | fmvDX | fcvtSD | fcvtDS =>
    cases h
    rw [decode32, opcodeOf_fmtR]
    show decodeOpFp _ = _
    rw [decodeOpFp, funct7Of_fmtR, funct3Of_fmtR, rdOf_fmtR, rs1Of_fmtR, rs2Of_fmtR]
    rfl
  all_goals cases h

/-- The decoder reads a 16-bit encoding back, quadrant by quadrant. -/
theorem decode16_of_encode {i : Instr} {w : BitVec 16} (hi : i.WellFormed) (h : encode i = .half w) :
    decode16 w = some i := by
  cases i
  case cAddi4spn | cFld | cLw | cLd | cFsd | cSw | cSd =>
    cases h
    simp_all [Instr.WellFormed, Instr.wf, decode16, decodeQ0, cReg_of_isCReg, cImm4spn_fmtCIW, cImmW_fmtCL, cImmD_fmtCL]
  case cNop | cEbreak =>
    cases h
    rfl
  case cAddi | cAddiw | cLi | cAddi16sp | cLui =>
    cases h
    simp_all [Instr.WellFormed, Instr.wf, decode16, decodeQ1, cImm6_fmtCI, cImm16sp_fmtCI, cImmLui_fmtCI,
      Decidable.imp_iff_not_or]
  case cSrli | cSrai | cAndi | cSub | cXor | cOr | cAnd | cSubw | cAddw =>
    cases h
    simp_all [Instr.WellFormed, Instr.wf, decode16, decodeQ1, decodeCArith, cReg_of_isCReg, cImm6_fmtCB]
  case cJ | cBeqz | cBnez =>
    cases h
    simp_all [Instr.WellFormed, Instr.wf, decode16, decodeQ1, cReg_of_isCReg, cImmJ_fmtCJ, cImmB_fmtCB]
  case cSlli | cFldsp | cLwsp | cLdsp =>
    cases h
    simp_all [Instr.WellFormed, Instr.wf, decode16, decodeQ2, cImmLdsp_fmtCI, cImmLwsp_fmtCI]
  case cJr | cMv | cJalr | cAdd =>
    cases h
    simp_all [Instr.WellFormed, Instr.wf, decode16, decodeQ2, decodeCR]
  case cFsdsp | cSwsp | cSdsp =>
    cases h
    simp_all [Instr.WellFormed, Instr.wf, decode16, decodeQ2, cImmSdsp_fmtCSS, cImmSwsp_fmtCSS]
  all_goals cases h

/-! ### Bytes (rules R220, R302) -/

theorem full_bytes (w : BitVec 32) :
    full (w.extractLsb' 0 8) (w.extractLsb' 8 8) (w.extractLsb' 16 8) (w.extractLsb' 24 8) = w := by
  simp (disch := omega) only [full, BitVec.extractLsb'_append_extractLsb'_eq_extractLsb']
  exact BitVec.extractLsb'_eq_self

theorem half_bytes (w : BitVec 16) : half (w.extractLsb' 0 8) (w.extractLsb' 8 8) = w :=
  BitVec.extractLsb'_append_extractLsb'

/-- Every major opcode that decodes ends in 11. -/
theorem lengthOf_of_decode32 {w : BitVec 32} {i : Instr} (h : decode32 w = some i) :
    lengthOf (w.extractLsb' 0 8) = 4 := by
  rw [lengthOf, Laws.extract_head32]
  unfold decode32 at h
  split at h
  case h_22 => cases h
  all_goals
    next hop =>
    rw [hop]
    rfl

/-- The quadrant 11 decodes to no compressed instruction. -/
theorem lengthOf_of_decode16 {w : BitVec 16} {i : Instr} (h : decode16 w = some i) :
    lengthOf (w.extractLsb' 0 8) = 2 := by
  rw [lengthOf, Laws.extract_head16]
  unfold decode16 at h
  split at h
  case h_4 => cases h
  all_goals
    next hq =>
    rw [hq]
    rfl

theorem decodeRow_of_decode32 {w : BitVec 32} {i : Instr} (h : decode32 w = some i) :
    decodeRow (codeBytes (.full w)) = some (.instr i, 4) := by
  rw [codeBytes, decodeRow, if_pos (lengthOf_of_decode32 h)]
  simp only [full_bytes, decodeFull, h]

theorem decodeRow_of_decode16 {w : BitVec 16} {i : Instr} (h : decode16 w = some i) :
    decodeRow (codeBytes (.half w)) = some (.instr i, 2) := by
  have hlen : ¬lengthOf (w.extractLsb' 0 8) = 4 := by
    rw [lengthOf_of_decode16 h]
    decide
  simp only [codeBytes, decodeRow, if_neg hlen, half_bytes, decodeHalf, h]

/-- The row decoder reads every encoding back, with the instruction's length. -/
theorem decodeRow_encode {i : Instr} (hi : i.WellFormed) :
    decodeRow (codeBytes (encode i)) = some (.instr i, instrLen i) := by
  unfold instrLen
  cases h : encode i with
  | full w => exact decodeRow_of_decode32 (decode32_of_encode hi h)
  | half w => exact decodeRow_of_decode16 (decode16_of_encode hi h)

/-- The typed decoder answers as the row decoder does, with the same length. -/
theorem decode_eq_map (bs : List Byte) : decode bs = (decodeRow bs).map (Prod.map typed id) := by
  unfold decode
  split
  · next h => rw [h]; rfl
  · next h => rw [h]; rfl

/-- An expansion is never a compressed form (rule R400). -/
theorem instrLen_expand (i : Instr) : instrLen (expand i) = 4 := by
  cases i <;> rfl

/-- Settles O2: the fields of each format read back, so the word decodes to its instruction; the word's bytes announce
its length. -/
theorem decodeOfEncode : Obligations.DecodeOfEncode :=
  ⟨fun _ hi => ⟨decodeRow_encode hi, by rw [decode_eq_map, decodeRow_encode hi]; rfl⟩, instrLen_expand⟩

/-! ### What the decoder answers for a window (rules R300, R302) -/

theorem lengthOf_cases (b : Byte) : lengthOf b = 4 ∨ lengthOf b = 2 := by
  unfold lengthOf
  split
  · exact .inl rfl
  · exact .inr rfl

/-- The decoder answers when the bytes the first one announces are present, and then with that length. -/
theorem decodeRow_length (b : Byte) (rest : List Byte) :
    (decodeRow (b :: rest)).map Prod.snd = if (b :: rest).length < lengthOf b then none else some (lengthOf b) := by
  obtain h | h := lengthOf_cases b
  · rcases rest with _ | ⟨b1, _ | ⟨b2, _ | ⟨b3, rest⟩⟩⟩ <;> simp [decodeRow, h]
  · rcases rest with _ | ⟨b1, rest⟩ <;> simp [decodeRow, h]

theorem decode_length (b : Byte) (rest : List Byte) :
    (decode (b :: rest)).map Prod.snd = if (b :: rest).length < lengthOf b then none else some (lengthOf b) := by
  rw [decode_eq_map, Option.map_map]
  exact decodeRow_length b rest

/-- Settles O5: an empty window has no answer, and the answer's length is there exactly when the bytes are. -/
theorem decodeNeedsItsBytes : Obligations.DecodeNeedsItsBytes := by
  rintro (_ | ⟨b, rest⟩)
  · simp [decode, decodeRow]
  · simp only [← Machine.lengthOf_eq]
    rw [← Option.map_eq_none_iff, decode_length]
    simp

/-! ### Words that decode to nothing (rules R302, R341) -/

theorem toNat_opcodeOf (w : BitVec 32) : (opcodeOf w).toNat = w.toNat % 128 := by
  simp [opcodeOf]

/-- No major opcode that decodes has 111 in bits 4 to 2. -/
theorem decode32_reserved {w : BitVec 32} (h : w.toNat / 4 % 8 = 7) : decode32 w = none := by
  have hop : (opcodeOf w).toNat / 4 % 8 = 7 := by
    rw [toNat_opcodeOf]
    omega
  unfold decode32
  split
  case h_22 => rfl
  all_goals
    next heq =>
    rw [heq] at hop
    exact absurd hop (by decide)

theorem decodeFull_of_none {w : BitVec 32} (h : decode32 w = none) : decodeFull w = .invalid w 4 := by
  rw [decodeFull, h]

/-- Settles O4: the length is the one the first byte announces, and the group decoders know no opcode with bits 111. -/
theorem lengthByLowBits : Obligations.LengthByLowBits := by
  refine ⟨fun b rest d n h => ?_, fun w _ h => decodeFull_of_none (decode32_reserved h)⟩
  have hlen := decode_length b rest
  rw [h] at hlen
  split at hlen
  · cases hlen
  · rw [← Machine.lengthOf_eq]
    exact Option.some.inj hlen

/-- Settles O6: SYSTEM has an arm for the words of ECALL and EBREAK alone. -/
theorem systemWordsInvalid : Obligations.SystemWordsInvalid := by
  intro w hop hecall hebreak
  refine decodeFull_of_none ?_
  have h73 : opcodeOf w = 0x73#7 := BitVec.eq_of_toNat_eq ((toNat_opcodeOf w).trans hop)
  rw [decode32, h73]
  show decodeSystem w = none
  unfold decodeSystem
  split
  · exact absurd rfl hecall
  · exact absurd rfl hebreak
  · rfl

end Sys2Proof
end

section
/-! PROOF. A word that decodes is the encoding of the instruction it decodes to: filling a format with the fields and
the immediate read from a word gives the word back (30_encoding.md rules R304, R310 to R345, R400 to R451). -/

namespace Sys2Proof

open BitVec (extractLsb'_eq_self extractLsb'_append_eq_of_le extractLsb'_append_eq_of_add_le extractLsb'_setWidth_of_le
  extractLsb'_append_extractLsb'_eq_extractLsb')

/-! ### A full word is its format filled with its fields (rule R305) -/

section

variable {w : BitVec 32} {op : BitVec 7} (hop : opcodeOf w = op)

include hop

theorem fmtR_of_fields {funct7 : BitVec 7} {rs2 : BitVec 5} {funct3 : BitVec 3} (h7 : funct7Of w = funct7)
    (h2 : rs2Of w = rs2) (h3 : funct3Of w = funct3) :
    fmtR funct7 rs2 (rs1Of w) funct3 (rdOf w) op = w := by
  rw [← hop, ← h7, ← h2, ← h3]
  simp (disch := omega) only [fmtR, funct7Of, rs2Of, rs1Of, funct3Of, rdOf, opcodeOf,
    extractLsb'_append_extractLsb'_eq_extractLsb']
  exact extractLsb'_eq_self

theorem fmtI_of_fields {funct3 : BitVec 3} (h3 : funct3Of w = funct3) :
    fmtI (immI w) (rs1Of w) funct3 (rdOf w) op = w := by
  rw [← hop, ← h3]
  simp (disch := omega) only [fmtI, immI, rs1Of, funct3Of, rdOf, opcodeOf, extractLsb'_signExtend,
    extractLsb'_extractLsb', extractLsb'_append_extractLsb'_eq_extractLsb']
  exact extractLsb'_eq_self

theorem fmtS_of_fields {funct3 : BitVec 3} (h3 : funct3Of w = funct3) :
    fmtS (immS w) (rs2Of w) (rs1Of w) funct3 op = w := by
  rw [← hop, ← h3]
  simp (disch := omega) only [fmtS, immS, rs2Of, rs1Of, funct3Of, opcodeOf, extractLsb'_signExtend,
    extractLsb'_append_eq_of_le, extractLsb'_append_eq_of_add_le, extractLsb'_extractLsb',
    extractLsb'_append_extractLsb'_eq_extractLsb']
  exact extractLsb'_eq_self

theorem fmtB_of_fields {funct3 : BitVec 3} (h3 : funct3Of w = funct3) :
    fmtB (immB w) (rs2Of w) (rs1Of w) funct3 op = w := by
  rw [← hop, ← h3]
  simp (disch := omega) only [fmtB, immB, rs2Of, rs1Of, funct3Of, opcodeOf, extractLsb'_signExtend,
    extractLsb'_append_eq_of_le, extractLsb'_append_eq_of_add_le, extractLsb'_extractLsb',
    extractLsb'_append_extractLsb'_eq_extractLsb']
  exact extractLsb'_eq_self

theorem fmtU_of_fields : fmtU (immU w) (rdOf w) op = w := by
  rw [← hop]
  simp (disch := omega) only [fmtU, immU, rdOf, opcodeOf, extractLsb'_signExtend, extractLsb'_append_eq_of_le,
    extractLsb'_extractLsb', extractLsb'_append_extractLsb'_eq_extractLsb']
  exact extractLsb'_eq_self

theorem fmtJ_of_fields : fmtJ (immJ w) (rdOf w) op = w := by
  rw [← hop]
  simp (disch := omega) only [fmtJ, immJ, rdOf, opcodeOf, extractLsb'_signExtend, extractLsb'_append_eq_of_le,
    extractLsb'_append_eq_of_add_le, extractLsb'_extractLsb', extractLsb'_append_extractLsb'_eq_extractLsb']
  exact extractLsb'_eq_self

theorem fmtR4_of_fields {funct2 : BitVec 2} (h2 : funct2Of w = funct2) :
    fmtR4 (funct5Of w) funct2 (rs2Of w) (rs1Of w) (funct3Of w) (rdOf w) op = w := by
  rw [← hop, ← h2]
  simp (disch := omega) only [fmtR4, funct5Of, funct2Of, rs2Of, rs1Of, funct3Of, rdOf, opcodeOf,
    extractLsb'_append_extractLsb'_eq_extractLsb']
  exact extractLsb'_eq_self

theorem fmtShift64_of_fields {funct6 : BitVec 6} {funct3 : BitVec 3}
    (h6 : funct6Of w = funct6) (h3 : funct3Of w = funct3) :
    fmtShift64 funct6 (shamt6Of w) (rs1Of w) funct3 (rdOf w) op = w := by
  rw [← hop, ← h6, ← h3]
  simp (disch := omega) only [fmtShift64, funct6Of, shamt6Of, rs1Of, funct3Of, rdOf, opcodeOf,
    extractLsb'_append_extractLsb'_eq_extractLsb']
  exact extractLsb'_eq_self

theorem fmtAmo_of_fields {funct5 : BitVec 5} {rs2 : BitVec 5} {funct3 : BitVec 3} (h5 : funct5Of w = funct5)
    (h2 : rs2Of w = rs2) (h3 : funct3Of w = funct3) :
    fmtAmo funct5 (aqOf w) (rlOf w) rs2 (rs1Of w) funct3 (rdOf w) op = w := by
  rw [← hop, ← h5, ← h2, ← h3]
  simp (disch := omega) only [fmtAmo, funct5Of, aqOf, rlOf, rs2Of, rs1Of, funct3Of, rdOf, opcodeOf,
    extractLsb'_append_extractLsb'_eq_extractLsb']
  exact extractLsb'_eq_self

theorem fmtFence_of_fields {funct3 : BitVec 3} (h3 : funct3Of w = funct3) :
    fmtFence (w.extractLsb' 28 4) (w.extractLsb' 24 4) (w.extractLsb' 20 4) (rs1Of w) funct3 (rdOf w) op = w := by
  rw [← hop, ← h3]
  simp (disch := omega) only [fmtFence, rs1Of, funct3Of, rdOf, opcodeOf,
    extractLsb'_append_extractLsb'_eq_extractLsb']
  exact extractLsb'_eq_self

end

/-! ### A compressed word is its format filled with its fields and its immediate (rule R401) -/

section

variable {w : BitVec 16}

theorem fmtCR_of_fields {funct4 : BitVec 4} {rs2 : BitVec 5} (h12 : w.extractLsb' 12 4 = funct4) (h2 : cRs2 w = rs2)
    (h0 : w.extractLsb' 0 2 = 0b10#2) : fmtCR funct4 (cRd w) rs2 = w := by
  rw [fmtCR, ← h12, ← h2, ← h0]
  simp (disch := omega) only [cRd, cRs2, extractLsb'_append_extractLsb'_eq_extractLsb']
  exact extractLsb'_eq_self

theorem fmtCA_of_fields {funct6 : BitVec 6} {funct2 : BitVec 2} (h10 : w.extractLsb' 10 6 = funct6)
    (h5 : w.extractLsb' 5 2 = funct2) (h0 : w.extractLsb' 0 2 = 0b01#2) :
    fmtCA funct6 (cRs1' w) funct2 (cRs2' w) = w := by
  rw [fmtCA, ← h10, ← h5, ← h0]
  simp (disch := omega) only [cRs1', cRs2', cReg, extractLsb'_append_eq_of_add_le, extractLsb'_extractLsb',
    extractLsb'_append_extractLsb'_eq_extractLsb']
  exact extractLsb'_eq_self

section

variable {funct3 : BitVec 3} (h13 : w.extractLsb' 13 3 = funct3)

include h13

section

variable {op : BitVec 2} (h0 : w.extractLsb' 0 2 = op)

include h0

theorem fmtCI_cShamt :
    fmtCI funct3 ((cShamt w).extractLsb' 5 1) (cRd w) ((cShamt w).extractLsb' 0 5) op = w := by
  rw [fmtCI, ← h13, ← h0]
  simp (disch := omega) only [cShamt, cRd, extractLsb'_append_eq_of_le, extractLsb'_append_eq_of_add_le,
    extractLsb'_extractLsb', extractLsb'_append_extractLsb'_eq_extractLsb']
  exact extractLsb'_eq_self

theorem fmtCI_cImm6 :
    fmtCI funct3 ((cImm6 w).extractLsb' 5 1) (cRd w) ((cImm6 w).extractLsb' 0 5) op = w := by
  rw [fmtCI, ← h13, ← h0]
  simp (disch := omega) only [cImm6, cRd, extractLsb'_signExtend, extractLsb'_append_eq_of_le,
    extractLsb'_append_eq_of_add_le, extractLsb'_extractLsb', extractLsb'_append_extractLsb'_eq_extractLsb']
  exact extractLsb'_eq_self

theorem fmtCI_cImmLui :
    fmtCI funct3 ((cImmLui w).extractLsb' 17 1) (cRd w) ((cImmLui w).extractLsb' 12 5) op = w := by
  rw [fmtCI, ← h13, ← h0]
  simp (disch := omega) only [cImmLui, cRd, extractLsb'_signExtend, extractLsb'_append_eq_of_le,
    extractLsb'_append_eq_of_add_le, extractLsb'_extractLsb', extractLsb'_append_extractLsb'_eq_extractLsb']
  exact extractLsb'_eq_self

theorem fmtCI_cImm16sp :
    fmtCI funct3 ((cImm16sp w).extractLsb' 9 1) (cRd w) ((cImm16sp w).extractLsb' 4 1 ++
      (cImm16sp w).extractLsb' 6 1 ++ (cImm16sp w).extractLsb' 7 2 ++ (cImm16sp w).extractLsb' 5 1) op = w := by
  rw [fmtCI, ← h13, ← h0]
  simp (disch := omega) only [cImm16sp, cRd, extractLsb'_signExtend, extractLsb'_append_eq_of_le,
    extractLsb'_append_eq_of_add_le, extractLsb'_extractLsb', extractLsb'_append_extractLsb'_eq_extractLsb']
  exact extractLsb'_eq_self

theorem fmtCI_cImmLdsp :
    fmtCI funct3 ((cImmLdsp w).extractLsb' 5 1) (cRd w) ((cImmLdsp w).extractLsb' 3 2 ++
      (cImmLdsp w).extractLsb' 6 3) op = w := by
  rw [fmtCI, ← h13, ← h0]
  simp (disch := omega) only [cImmLdsp, cRd, extractLsb'_setWidth_of_le, extractLsb'_append_eq_of_le,
    extractLsb'_append_eq_of_add_le, extractLsb'_extractLsb', extractLsb'_append_extractLsb'_eq_extractLsb']
  exact extractLsb'_eq_self

theorem fmtCI_cImmLwsp :
    fmtCI funct3 ((cImmLwsp w).extractLsb' 5 1) (cRd w) ((cImmLwsp w).extractLsb' 2 3 ++
      (cImmLwsp w).extractLsb' 6 2) op = w := by
  rw [fmtCI, ← h13, ← h0]
  simp (disch := omega) only [cImmLwsp, cRd, extractLsb'_setWidth_of_le, extractLsb'_append_eq_of_le,
    extractLsb'_append_eq_of_add_le, extractLsb'_extractLsb', extractLsb'_append_extractLsb'_eq_extractLsb']
  exact extractLsb'_eq_self

end

theorem fmtCSS_cImmSdsp (h0 : w.extractLsb' 0 2 = 0b10#2) :
    fmtCSS funct3 ((cImmSdsp w).extractLsb' 3 3 ++ (cImmSdsp w).extractLsb' 6 3) (cRs2 w) = w := by
  rw [fmtCSS, ← h13, ← h0]
  simp (disch := omega) only [cImmSdsp, cRs2, extractLsb'_setWidth_of_le, extractLsb'_append_eq_of_le,
    extractLsb'_append_eq_of_add_le, extractLsb'_extractLsb', extractLsb'_append_extractLsb'_eq_extractLsb']
  exact extractLsb'_eq_self

theorem fmtCSS_cImmSwsp (h0 : w.extractLsb' 0 2 = 0b10#2) :
    fmtCSS funct3 ((cImmSwsp w).extractLsb' 2 4 ++ (cImmSwsp w).extractLsb' 6 2) (cRs2 w) = w := by
  rw [fmtCSS, ← h13, ← h0]
  simp (disch := omega) only [cImmSwsp, cRs2, extractLsb'_setWidth_of_le, extractLsb'_append_eq_of_le,
    extractLsb'_append_eq_of_add_le, extractLsb'_extractLsb', extractLsb'_append_extractLsb'_eq_extractLsb']
  exact extractLsb'_eq_self

theorem fmtCIW_cImm4spn (h0 : w.extractLsb' 0 2 = 0b00#2) :
    fmtCIW funct3 ((cImm4spn w).extractLsb' 4 2 ++ (cImm4spn w).extractLsb' 6 4 ++
      (cImm4spn w).extractLsb' 2 1 ++ (cImm4spn w).extractLsb' 3 1) (cRs2' w) = w := by
  rw [fmtCIW, ← h13, ← h0]
  simp (disch := omega) only [cImm4spn, cRs2', cReg, extractLsb'_setWidth_of_le, extractLsb'_append_eq_of_le,
    extractLsb'_append_eq_of_add_le, extractLsb'_extractLsb', extractLsb'_append_extractLsb'_eq_extractLsb']
  exact extractLsb'_eq_self

theorem fmtCL_cImmW (h0 : w.extractLsb' 0 2 = 0b00#2) :
    fmtCL funct3 ((cImmW w).extractLsb' 3 3) (cRs1' w) ((cImmW w).extractLsb' 2 1 ++
      (cImmW w).extractLsb' 6 1) (cRs2' w) = w := by
  rw [fmtCL, ← h13, ← h0]
  simp (disch := omega) only [cImmW, cRs1', cRs2', cReg, extractLsb'_setWidth_of_le, extractLsb'_append_eq_of_le,
    extractLsb'_append_eq_of_add_le, extractLsb'_extractLsb', extractLsb'_append_extractLsb'_eq_extractLsb']
  exact extractLsb'_eq_self

theorem fmtCL_cImmD (h0 : w.extractLsb' 0 2 = 0b00#2) :
    fmtCL funct3 ((cImmD w).extractLsb' 3 3) (cRs1' w) ((cImmD w).extractLsb' 6 2) (cRs2' w) = w := by
  rw [fmtCL, ← h13, ← h0]
  simp (disch := omega) only [cImmD, cRs1', cRs2', cReg, extractLsb'_setWidth_of_le, extractLsb'_append_eq_of_le,
    extractLsb'_append_eq_of_add_le, extractLsb'_extractLsb', extractLsb'_append_extractLsb'_eq_extractLsb']
  exact extractLsb'_eq_self

theorem fmtCB_cShamt {funct2 : BitVec 2} (h10 : w.extractLsb' 10 2 = funct2) (h0 : w.extractLsb' 0 2 = 0b01#2) :
    fmtCB funct3 ((cShamt w).extractLsb' 5 1 ++ funct2) (cRs1' w) ((cShamt w).extractLsb' 0 5) = w := by
  rw [fmtCB, ← h13, ← h10, ← h0]
  simp (disch := omega) only [cShamt, cRs1', cReg, extractLsb'_append_eq_of_le, extractLsb'_append_eq_of_add_le,
    extractLsb'_extractLsb', extractLsb'_append_extractLsb'_eq_extractLsb']
  exact extractLsb'_eq_self

theorem fmtCB_cImm6 {funct2 : BitVec 2} (h10 : w.extractLsb' 10 2 = funct2) (h0 : w.extractLsb' 0 2 = 0b01#2) :
    fmtCB funct3 ((cImm6 w).extractLsb' 5 1 ++ funct2) (cRs1' w) ((cImm6 w).extractLsb' 0 5) = w := by
  rw [fmtCB, ← h13, ← h10, ← h0]
  simp (disch := omega) only [cImm6, cRs1', cReg, extractLsb'_signExtend, extractLsb'_append_eq_of_le,
    extractLsb'_append_eq_of_add_le, extractLsb'_extractLsb', extractLsb'_append_extractLsb'_eq_extractLsb']
  exact extractLsb'_eq_self

theorem fmtCB_cImmB (h0 : w.extractLsb' 0 2 = 0b01#2) :
    fmtCB funct3 ((cImmB w).extractLsb' 8 1 ++ (cImmB w).extractLsb' 3 2) (cRs1' w) ((cImmB w).extractLsb' 6 2 ++
      (cImmB w).extractLsb' 1 2 ++ (cImmB w).extractLsb' 5 1) = w := by
  rw [fmtCB, ← h13, ← h0]
  simp (disch := omega) only [cImmB, cRs1', cReg, extractLsb'_signExtend, extractLsb'_append_eq_of_le,
    extractLsb'_append_eq_of_add_le, extractLsb'_extractLsb', extractLsb'_append_extractLsb'_eq_extractLsb']
  exact extractLsb'_eq_self

theorem fmtCJ_cImmJ (h0 : w.extractLsb' 0 2 = 0b01#2) :
    fmtCJ funct3 ((cImmJ w).extractLsb' 11 1 ++ (cImmJ w).extractLsb' 4 1 ++ (cImmJ w).extractLsb' 8 2 ++
      (cImmJ w).extractLsb' 10 1 ++ (cImmJ w).extractLsb' 6 1 ++ (cImmJ w).extractLsb' 7 1 ++
      (cImmJ w).extractLsb' 1 3 ++ (cImmJ w).extractLsb' 5 1) = w := by
  rw [fmtCJ, ← h13, ← h0]
  simp (disch := omega) only [cImmJ, extractLsb'_signExtend, extractLsb'_append_eq_of_le,
    extractLsb'_append_eq_of_add_le, extractLsb'_extractLsb', extractLsb'_append_extractLsb'_eq_extractLsb']
  exact extractLsb'_eq_self

end

end

/-! ### The group decoders of the full instructions (rules R321 to R338) -/

section

variable {w : BitVec 32} {i : Instr}

theorem encode_of_decodeLoad (hop : opcodeOf w = 0x03#7) (h : decodeLoad w = some i) : encode i = .full w := by
  unfold decodeLoad at h
  split at h <;> cases h
  all_goals exact congrArg Code.full (fmtI_of_fields hop ‹_›)

theorem encode_of_decodeLoadFp (hop : opcodeOf w = 0x07#7) (h : decodeLoadFp w = some i) : encode i = .full w := by
  unfold decodeLoadFp at h
  split at h <;> cases h
  all_goals exact congrArg Code.full (fmtI_of_fields hop ‹_›)

theorem encode_of_decodeMiscMem (hop : opcodeOf w = 0x0F#7) (h : decodeMiscMem w = some i) : encode i = .full w := by
  unfold decodeMiscMem at h
  split at h <;> cases h
  exact congrArg Code.full (fmtFence_of_fields hop ‹_›)

theorem encode_of_decodeOpImm (hop : opcodeOf w = 0x13#7) (h : decodeOpImm w = some i) : encode i = .full w := by
  unfold decodeOpImm at h
  split at h
  case h_7 | h_8 =>
    split at h <;> cases h
    all_goals exact congrArg Code.full (fmtShift64_of_fields hop ‹_› ‹_›)
  all_goals cases h
  all_goals exact congrArg Code.full (fmtI_of_fields hop ‹_›)

theorem encode_of_decodeOpImm32 (hop : opcodeOf w = 0x1B#7) (h : decodeOpImm32 w = some i) : encode i = .full w := by
  unfold decodeOpImm32 at h
  split at h
  case h_2 | h_3 =>
    split at h <;> cases h
    all_goals exact congrArg Code.full (fmtR_of_fields hop ‹_› rfl ‹_›)
  all_goals cases h
  exact congrArg Code.full (fmtI_of_fields hop ‹_›)

theorem encode_of_decodeStore (hop : opcodeOf w = 0x23#7) (h : decodeStore w = some i) : encode i = .full w := by
  unfold decodeStore at h
  split at h <;> cases h
  all_goals exact congrArg Code.full (fmtS_of_fields hop ‹_›)

theorem encode_of_decodeStoreFp (hop : opcodeOf w = 0x27#7) (h : decodeStoreFp w = some i) : encode i = .full w := by
  unfold decodeStoreFp at h
  split at h <;> cases h
  all_goals exact congrArg Code.full (fmtS_of_fields hop ‹_›)

theorem encode_of_decodeAmoW (hop : opcodeOf w = 0x2F#7) (h3 : funct3Of w = 0b010#3) (h : decodeAmoW w = some i) :
    encode i = .full w := by
  unfold decodeAmoW at h
  split at h
  case h_1 =>
    split at h <;> cases h
    exact congrArg Code.full (fmtAmo_of_fields hop ‹_› ‹_› h3)
  all_goals cases h
  all_goals exact congrArg Code.full (fmtAmo_of_fields hop ‹_› rfl h3)

theorem encode_of_decodeAmoD (hop : opcodeOf w = 0x2F#7) (h3 : funct3Of w = 0b011#3) (h : decodeAmoD w = some i) :
    encode i = .full w := by
  unfold decodeAmoD at h
  split at h
  case h_1 =>
    split at h <;> cases h
    exact congrArg Code.full (fmtAmo_of_fields hop ‹_› ‹_› h3)
  all_goals cases h
  all_goals exact congrArg Code.full (fmtAmo_of_fields hop ‹_› rfl h3)

theorem encode_of_decodeAmo (hop : opcodeOf w = 0x2F#7) (h : decodeAmo w = some i) : encode i = .full w := by
  unfold decodeAmo at h
  split at h
  · exact encode_of_decodeAmoW hop ‹_› h
  · exact encode_of_decodeAmoD hop ‹_› h
  · cases h

theorem encode_of_decodeOp (hop : opcodeOf w = 0x33#7) (h : decodeOp w = some i) : encode i = .full w := by
  unfold decodeOp at h
  repeat' split at h
  all_goals cases h
  all_goals exact congrArg Code.full (fmtR_of_fields hop ‹_› rfl ‹_›)

theorem encode_of_decodeOp32 (hop : opcodeOf w = 0x3B#7) (h : decodeOp32 w = some i) : encode i = .full w := by
  unfold decodeOp32 at h
  repeat' split at h
  all_goals cases h
  all_goals exact congrArg Code.full (fmtR_of_fields hop ‹_› rfl ‹_›)

theorem encode_of_decodeMadd (hop : opcodeOf w = 0x43#7) (h : decodeMadd w = some i) : encode i = .full w := by
  unfold decodeMadd at h
  split at h <;> cases h
  all_goals exact congrArg Code.full (fmtR4_of_fields hop ‹_›)

theorem encode_of_decodeMsub (hop : opcodeOf w = 0x47#7) (h : decodeMsub w = some i) : encode i = .full w := by
  unfold decodeMsub at h
  split at h <;> cases h
  all_goals exact congrArg Code.full (fmtR4_of_fields hop ‹_›)

theorem encode_of_decodeNmsub (hop : opcodeOf w = 0x4B#7) (h : decodeNmsub w = some i) : encode i = .full w := by
  unfold decodeNmsub at h
  split at h <;> cases h
  all_goals exact congrArg Code.full (fmtR4_of_fields hop ‹_›)

theorem encode_of_decodeNmadd (hop : opcodeOf w = 0x4F#7) (h : decodeNmadd w = some i) : encode i = .full w := by
  unfold decodeNmadd at h
  split at h <;> cases h
  all_goals exact congrArg Code.full (fmtR4_of_fields hop ‹_›)

theorem encode_of_decodeOpFp (hop : opcodeOf w = 0x53#7) (h : decodeOpFp w = some i) : encode i = .full w := by
  unfold decodeOpFp at h
  repeat' split at h
  all_goals cases h
  all_goals simp [encode, fmtR_of_fields hop, *]

theorem encode_of_decodeBranch (hop : opcodeOf w = 0x63#7) (h : decodeBranch w = some i) : encode i = .full w := by
  unfold decodeBranch at h
  split at h <;> cases h
  all_goals exact congrArg Code.full (fmtB_of_fields hop ‹_›)

theorem encode_of_decodeJalr (hop : opcodeOf w = 0x67#7) (h : decodeJalr w = some i) : encode i = .full w := by
  unfold decodeJalr at h
  split at h <;> cases h
  exact congrArg Code.full (fmtI_of_fields hop ‹_›)

theorem encode_of_decodeSystem (h : decodeSystem w = some i) : encode i = .full w := by
  unfold decodeSystem at h
  split at h <;> cases h <;> rfl

theorem encode_of_decode32 (h : decode32 w = some i) : encode i = .full w := by
  unfold decode32 at h
  split at h
  · exact encode_of_decodeLoad ‹_› h
  · exact encode_of_decodeLoadFp ‹_› h
  · exact encode_of_decodeMiscMem ‹_› h
  · exact encode_of_decodeOpImm ‹_› h
  · cases h
    exact congrArg Code.full (fmtU_of_fields ‹_›)
  · exact encode_of_decodeOpImm32 ‹_› h
  · exact encode_of_decodeStore ‹_› h
  · exact encode_of_decodeStoreFp ‹_› h
  · exact encode_of_decodeAmo ‹_› h
  · exact encode_of_decodeOp ‹_› h
  · cases h
    exact congrArg Code.full (fmtU_of_fields ‹_›)
  · exact encode_of_decodeOp32 ‹_› h
  · exact encode_of_decodeMadd ‹_› h
  · exact encode_of_decodeMsub ‹_› h
  · exact encode_of_decodeNmsub ‹_› h
  · exact encode_of_decodeNmadd ‹_› h
  · exact encode_of_decodeOpFp ‹_› h
  · exact encode_of_decodeBranch ‹_› h
  · exact encode_of_decodeJalr ‹_› h
  · cases h
    exact congrArg Code.full (fmtJ_of_fields ‹_›)
  · exact encode_of_decodeSystem h
  · cases h

end

/-! ### The quadrants of the compressed instructions (rules R410 to R451) -/

section

variable {w : BitVec 16} {i : Instr}

theorem encode_of_decodeQ0 (h0 : w.extractLsb' 0 2 = 0b00#2) (h : decodeQ0 w = some i) : encode i = .half w := by
  unfold decodeQ0 at h
  split at h
  case h_1 =>
    split at h <;> cases h
    exact congrArg Code.half (fmtCIW_cImm4spn ‹_› h0)
  case h_2 | h_4 | h_5 | h_7 =>
    cases h
    exact congrArg Code.half (fmtCL_cImmD ‹_› h0)
  case h_3 | h_6 =>
    cases h
    exact congrArg Code.half (fmtCL_cImmW ‹_› h0)
  case h_8 => cases h

theorem eq_three_of_ne {x : BitVec 2} (h0 : x ≠ 0#2) (h1 : x ≠ 1#2) (h2 : x ≠ 2#2) : x = 3#2 := by
  revert x
  decide

theorem eq_one_of_ne {x : BitVec 1} (h0 : x ≠ 0#1) : x = 1#1 := by
  revert x
  decide

theorem funct4_of_parts {a : BitVec 3} {b : BitVec 1} (h13 : w.extractLsb' 13 3 = a) (h12 : w.extractLsb' 12 1 = b) :
    w.extractLsb' 12 4 = a ++ b := by
  rw [← h13, ← h12]
  exact (BitVec.extractLsb'_append_extractLsb'_eq_extractLsb' (show 13 = 12 + 1 from rfl)).symm

theorem funct6_of_parts {a : BitVec 3} {b : BitVec 1} {c : BitVec 2} (h13 : w.extractLsb' 13 3 = a)
    (h12 : w.extractLsb' 12 1 = b) (h10 : w.extractLsb' 10 2 = c) : w.extractLsb' 10 6 = a ++ b ++ c := by
  rw [← funct4_of_parts h13 h12, ← h10]
  exact (BitVec.extractLsb'_append_extractLsb'_eq_extractLsb' (show 12 = 10 + 2 from rfl)).symm

theorem encode_of_decodeCArith (h0 : w.extractLsb' 0 2 = 0b01#2) (h13 : w.extractLsb' 13 3 = 0b100#3)
    (h : decodeCArith w = some i) : encode i = .half w := by
  unfold decodeCArith at h
  split at h
  case h_1 | h_2 =>
    cases h
    exact congrArg Code.half (fmtCB_cShamt h13 ‹_› h0)
  case h_3 =>
    cases h
    exact congrArg Code.half (fmtCB_cImm6 h13 ‹_› h0)
  case h_4 h00 h01 h10 =>
    split at h <;> cases h
    all_goals
      exact congrArg Code.half (fmtCA_of_fields (funct6_of_parts h13 ‹_› (eq_three_of_ne h00 h01 h10)) ‹_› h0)

theorem encode_of_decodeQ1 (h0 : w.extractLsb' 0 2 = 0b01#2) (h : decodeQ1 w = some i) : encode i = .half w := by
  unfold decodeQ1 at h
  split at h
  case h_1 =>
    have hw := fmtCI_cImm6 ‹_› h0
    split at h <;> cases h
    · next hnop =>
      obtain ⟨hrd, himm⟩ := hnop
      rw [hrd, himm] at hw
      exact congrArg Code.half hw
    · exact congrArg Code.half hw
  case h_2 =>
    split at h <;> cases h
    exact congrArg Code.half (fmtCI_cImm6 ‹_› h0)
  case h_3 =>
    cases h
    exact congrArg Code.half (fmtCI_cImm6 ‹_› h0)
  case h_4 =>
    split at h <;> split at h <;> cases h
    · next hrd _ =>
      have hw := fmtCI_cImm16sp ‹_› h0
      rw [hrd] at hw
      exact congrArg Code.half hw
    · exact congrArg Code.half (fmtCI_cImmLui ‹_› h0)
  case h_5 => exact encode_of_decodeCArith h0 ‹_› h
  case h_6 =>
    cases h
    exact congrArg Code.half (fmtCJ_cImmJ ‹_› h0)
  case h_7 | h_8 =>
    cases h
    exact congrArg Code.half (fmtCB_cImmB ‹_› h0)
  case h_9 => cases h

theorem encode_of_decodeCR (h0 : w.extractLsb' 0 2 = 0b10#2) (h13 : w.extractLsb' 13 3 = 0b100#3)
    (h : decodeCR w = some i) : encode i = .half w := by
  unfold decodeCR at h
  split at h
  case h_1 h12 =>
    have hw := fmtCR_of_fields (funct4_of_parts h13 h12) rfl h0
    split at h
    · next hrs2 =>
      rw [hrs2] at hw
      split at h <;> cases h
      exact congrArg Code.half hw
    · cases h
      exact congrArg Code.half hw
  case h_2 h12 =>
    have hw := fmtCR_of_fields (funct4_of_parts h13 (eq_one_of_ne h12)) rfl h0
    split at h
    · next hrs2 =>
      rw [hrs2] at hw
      split at h <;> cases h
      · next hrd =>
        rw [hrd] at hw
        exact congrArg Code.half hw
      · exact congrArg Code.half hw
    · cases h
      exact congrArg Code.half hw

theorem encode_of_decodeQ2 (h0 : w.extractLsb' 0 2 = 0b10#2) (h : decodeQ2 w = some i) : encode i = .half w := by
  unfold decodeQ2 at h
  split at h
  case h_1 =>
    cases h
    exact congrArg Code.half (fmtCI_cShamt ‹_› h0)
  case h_2 =>
    cases h
    exact congrArg Code.half (fmtCI_cImmLdsp ‹_› h0)
  case h_3 =>
    split at h <;> cases h
    exact congrArg Code.half (fmtCI_cImmLwsp ‹_› h0)
  case h_4 =>
    split at h <;> cases h
    exact congrArg Code.half (fmtCI_cImmLdsp ‹_› h0)
  case h_5 => exact encode_of_decodeCR h0 ‹_› h
  case h_6 | h_8 =>
    cases h
    exact congrArg Code.half (fmtCSS_cImmSdsp ‹_› h0)
  case h_7 =>
    cases h
    exact congrArg Code.half (fmtCSS_cImmSwsp ‹_› h0)
  case h_9 => cases h

theorem encode_of_decode16 (h : decode16 w = some i) : encode i = .half w := by
  unfold decode16 at h
  split at h
  · exact encode_of_decodeQ0 ‹_› h
  · exact encode_of_decodeQ1 ‹_› h
  · exact encode_of_decodeQ2 ‹_› h
  · cases h

end

/-- Settles O3: what decodes is well formed, and its format filled with the fields the decoder read is the word. -/
theorem encodeOfDecode : Obligations.EncodeOfDecode := by
  refine ⟨fun w i h => ⟨wellFormed_of_decodeFull h, ?_⟩, fun w i h => ⟨wellFormed_of_decodeHalf h, ?_⟩⟩
  · unfold decodeFull at h
    split at h <;> cases h
    exact encode_of_decode32 ‹_›
  · unfold decodeHalf at h
    split at h <;> cases h
    exact encode_of_decode16 ‹_›

end Sys2Proof
end

section
/-! PROOF. The compressed forms do what the full instructions they expand to do, with length 2 (30_encoding.md rules
R400 to R451): each claim is the next state Laws/Instructions.lean gives, read as a frame. -/

namespace Sys2Proof.Machine

open Sys2Proof.Claims

/-! ### From a next state to the claim's frame -/

theorem onlyPc_of_exec {i : Instr} {s : State} {pc : Word} (h : exec i s = .next { s with pc := pc }) : OnlyPc i s pc :=
  ⟨_, h, rfl, fun _ => rfl, fun _ => rfl, fun _ => rfl, rfl, rfl, rfl, rfl⟩

theorem writesX_of_exec {i : Instr} {s : State} {rd : XReg} {v pc : Word}
    (h : exec i s = .next { s.setX rd v with pc := pc }) : WritesX i s rd v pc :=
  ⟨_, h, fun r => s.getX_setX rd r v, rfl, fun r => s.getF_setX rd v r,
    fun a => congrArg (·.byte a) (s.setX_mem rd v), s.setX_resv rd v, s.setX_regions rd v, s.setX_cfg rd v,
    s.setX_syscalls rd v⟩

theorem writesF_of_exec {i : Instr} {s : State} {rd : FReg} {v pc : Word}
    (h : exec i s = .next { s.setF rd v with pc := pc }) : WritesF i s rd v pc :=
  ⟨_, h, fun r => s.getF_setF rd r v, rfl, fun _ => rfl, fun _ => rfl, rfl, rfl, rfl, rfl⟩

/-- In a canonical memory the bytes written are the value's and the others stay. -/
theorem stores_of_exec {i : Instr} {s : State} {a v pc : Word} {n : Nat} (hs : s.mem.wf = true)
    (h : exec i s = .next { s with mem := s.mem.setBytes a.toNat (leBytes n v), pc := pc }) : Stores i s a n v pc := by
  refine ⟨_, h, fun k hk => ?_, fun b hb => ?_, rfl, fun _ => rfl, fun _ => rfl, rfl, rfl, rfl, rfl⟩
  · simp only [Memory.byte_setBytes hs, leBytes_length, Nat.add_sub_cancel_left]
    rw [if_pos (by omega), leBytes_getD n v k hk]
  · exact Memory.byte_setBytes_outside _ _ (by rwa [leBytes_length])

/-! ### Values of shifts and word sums as integers (rules R617 to R621, R625, R631) -/

theorem toNat_shiftLeft_eq (v : Word) (n : Nat) : (v <<< n).toNat = v.toNat * 2 ^ n % 2 ^ 64 := by
  rw [BitVec.toNat_shiftLeft, Nat.shiftLeft_eq]

theorem toNat_ushiftRight_eq (v : Word) (n : Nat) : (v >>> n).toNat = v.toNat / 2 ^ n := by
  rw [BitVec.toNat_ushiftRight, Nat.shiftRight_eq_div_pow]

theorem toInt_sshiftRight_eq (v : Word) (n : Nat) : (v.sshiftRight n).toInt = v.toInt / 2 ^ n := by
  rw [BitVec.toInt_sshiftRight, Int.shiftRight_eq_div_pow]
  norm_cast

/-- `sext_32(v)` is the signed integer any integer congruent to v has. -/
theorem toInt_sext32 {v : Word} {x : Int} (h : (v.toNat : Int) % 2 ^ 32 = x % 2 ^ 32) :
    (sext 32 v).toInt = sext32Int x := by
  rw [sext, BitVec.toInt_signExtend_of_le (by decide), BitVec.toInt_eq_toNat_bmod, BitVec.toNat_setWidth, sext32Int,
    ← Int.emod_bmod x]
  exact congrArg (Int.bmod · (2 ^ 32)) (by push_cast; exact h)

theorem toInt_aluAddw (a b : Word) : (aluAddw a b).toInt = sext32Int (lowNat a + lowNat b) := by
  refine toInt_sext32 ?_
  rw [BitVec.toNat_add, lowNat, lowNat]
  omega

theorem toInt_aluSubw (a b : Word) : (aluSubw a b).toInt = sext32Int (lowNat a - lowNat b) := by
  refine toInt_sext32 ?_
  rw [BitVec.toNat_sub, lowNat, lowNat]
  have hb := b.isLt
  omega

/-! ### Integer forms -/

/-- Settles O24, by the next state of each form. -/
theorem compressedIntegerResults : Obligations.CompressedIntegerResults := by
  intro s rd rs2 imm shamt
  refine ⟨writesX_of_exec (exec_cAddi4spn s rd imm), onlyPc_of_exec (exec_cNop s),
    writesX_of_exec (exec_cAddi s rd imm),
    ⟨_, writesX_of_exec (exec_cAddiw s rd imm), toInt_aluAddw _ _⟩, ?_, writesX_of_exec (exec_cAddi16sp s imm),
    writesX_of_exec (exec_cLui s rd imm),
    ⟨_, writesX_of_exec (exec_cSrli s rd shamt), toNat_ushiftRight_eq _ _⟩,
    ⟨_, writesX_of_exec (exec_cSrai s rd shamt), toInt_sshiftRight_eq _ _⟩,
    writesX_of_exec (exec_cAndi s rd imm), writesX_of_exec (exec_cSub s rd rs2), writesX_of_exec (exec_cXor s rd rs2),
    writesX_of_exec (exec_cOr s rd rs2), writesX_of_exec (exec_cAnd s rd rs2),
    ⟨_, writesX_of_exec (exec_cSubw s rd rs2), toInt_aluSubw _ _⟩,
    ⟨_, writesX_of_exec (exec_cAddw s rd rs2), toInt_aluAddw _ _⟩,
    ⟨_, writesX_of_exec (exec_cSlli s rd shamt), toNat_shiftLeft_eq _ _⟩, ?_,
    writesX_of_exec (exec_cAdd s rd rs2)⟩
  · exact writesX_of_exec (by simpa using exec_cLi s rd imm)
  · exact writesX_of_exec (by simpa using exec_cMv s rd rs2)

/-! ### Jumps and branches -/

/-- Clearing bit 0 rounds down to an even number (rule R801). -/
theorem toNat_clear_bit0 (v : Word) : (v &&& ~~~(1 : Word)).toNat = 2 * (v.toNat / 2) := by
  have h : v &&& ~~~(1 : Word) = (v >>> 1) <<< 1 := by
    ext k hk
    cases k with
    | zero => simp
    | succ k => simp [-BitVec.reduceNot, BitVec.getElem_one, BitVec.getLsbD_eq_getElem hk, Nat.add_comm 1 k]
  have hv := v.isLt
  rw [h, toNat_shiftLeft_eq, toNat_ushiftRight_eq]
  omega

/-- Settles O25, by the target of a jump and the condition of a branch on `x0`. -/
theorem compressedJumpsAndBranches : Obligations.CompressedJumpsAndBranches := by
  intro s rs1 imm
  refine ⟨onlyPc_of_exec (exec_cJ s imm), ⟨s.getX rs1 &&& ~~~1, toNat_clear_bit0 _, ?_, ?_⟩, ?_, ?_⟩
  · exact onlyPc_of_exec (by simpa using exec_cJr s rs1)
  · exact writesX_of_exec (by simpa using exec_cJalr s rs1)
  · exact onlyPc_of_exec (by simpa [condEq] using exec_cBeqz s rs1 imm)
  · exact onlyPc_of_exec (by simpa [condNe, condEq] using exec_cBnez s rs1 imm)

/-! ### Loads and stores (rules R211 to R213, R750) -/

theorem State.value_word (s : State) (a : Word) : sext 32 (s.value a 4) = (wordAt s a).signExtend 64 := by
  rw [State.value_four, sext_setWidth (by decide)]
  rfl

theorem State.value_double (s : State) (a : Word) : s.value a 8 = doubleAt s a := s.value_eight a

section

variable {i : Instr} {s : State} {n : Nat} {rs1 : XReg} {imm : Word} {len : Nat}

theorem writesX_of_loadX {ext : Word → Word} {rd : XReg} (hi : exec i s = loadX n ext rd rs1 imm len s)
    (h : ReadAdmitted s (s.getX rs1 + imm) n) :
    WritesX i s rd (ext (s.value (s.getX rs1 + imm) n)) (s.pc + BitVec.ofNat 64 len) :=
  writesX_of_exec (hi.trans (loadX_of_readable (State.readable_iff.2 h)))

theorem writesF_of_loadF {ext : Word → Word} {rd : FReg} (hi : exec i s = loadF n ext rd rs1 imm len s)
    (h : ReadAdmitted s (s.getX rs1 + imm) n) :
    WritesF i s rd (ext (s.value (s.getX rs1 + imm) n)) (s.pc + BitVec.ofNat 64 len) :=
  writesF_of_exec (hi.trans (loadF_of_readable (State.readable_iff.2 h)))

theorem stores_of_storeX {rs2 : XReg} (hs : s.mem.wf = true) (hi : exec i s = storeX n rs1 rs2 imm len s)
    (h : WriteAdmitted s (s.getX rs1 + imm) n) :
    Stores i s (s.getX rs1 + imm) n (s.getX rs2) (s.pc + BitVec.ofNat 64 len) :=
  stores_of_exec hs (hi.trans (storeWord_of_writable (State.writable_iff.2 h)))

theorem stores_of_storeF {rs2 : FReg} (hs : s.mem.wf = true) (hi : exec i s = storeF n rs1 rs2 imm len s)
    (h : WriteAdmitted s (s.getX rs1 + imm) n) :
    Stores i s (s.getX rs1 + imm) n (s.getF rs2) (s.pc + BitVec.ofNat 64 len) :=
  stores_of_exec hs (hi.trans (storeWord_of_writable (State.writable_iff.2 h)))

end

/-- Settles O26: each form is a load of the shared shape, and what it reads is the word or doubleword at the address. -/
theorem compressedLoadsComplete : Obligations.CompressedLoadsComplete := by
  intro s rd rs1 fd imm
  simp only [← State.value_word, ← State.value_double]
  exact ⟨writesX_of_loadX (ext := sext 32) rfl,
    fun h => ⟨writesX_of_loadX (ext := id) rfl h, writesF_of_loadF (ext := id) rfl h⟩,
    writesX_of_loadX (ext := sext 32) rfl,
    fun h => ⟨writesX_of_loadX (ext := id) rfl h, writesF_of_loadF (ext := id) rfl h⟩⟩

/-- Settles O27: each form is a store of the shared shape. -/
theorem compressedStoresComplete : Obligations.CompressedStoresComplete := by
  intro s rs1 rs2 fs imm hs
  exact ⟨stores_of_storeX hs rfl, fun h => ⟨stores_of_storeX hs rfl h, stores_of_storeF hs rfl h⟩,
    stores_of_storeX hs rfl, fun h => ⟨stores_of_storeX hs rfl h, stores_of_storeF hs rfl h⟩⟩

end Sys2Proof.Machine
end

section
/-! PROOF. What a step does with the bytes at the pc (40_execution_cycle.md rules R500 to R504): it misses, refuses the
word or runs the row it decodes to; and an instruction that issues no redirect falls through. -/

namespace Sys2Proof.Machine

open Sys2Proof.Claims

/-! ### From fetched bytes to the end of the step -/

section

variable {s : State} {n : Nat}

/-- An admitted window of the announced length is what the step decodes. -/
theorem fetchDecode_of_admitted (hn : n = if (s.mem.byte s.pc.toNat).toNat % 4 = 3 then 4 else 2)
    (h : ReadAdmitted s s.pc n) : fetchDecode s = decodeFetched s.pc (s.mem.bytes s.pc.toNat n) := by
  rw [← lengthOf_eq] at hn
  subst hn
  rw [fetchDecode, fetch_of_readable (State.readable_iff.2 h)]

/-- A fetch that fails ends the step with what it failed with. -/
theorem step_of_fetch_error {r : Fault} (h : fetch s = .error r) : step s = .fault r :=
  step_of_error (by rw [fetchDecode, h])

/-- A step that ends before an instruction runs leaves what the halt outcome records. -/
theorem stepOutcome_of_error {r : Fault} (h : fetchDecode s = .error r) :
    stepOutcome s = some (haltState r s, .halted r) := by
  rw [stepOutcome, h]

/-- The typed decoder refuses a window exactly as the row decoder does. -/
theorem decodeRow_of_decode_invalid {bs : List Byte} {raw : BitVec 32} {len : Nat}
    (h : decode bs = some (.invalid raw len, n)) : decodeRow bs = some (.invalid raw len, n) := by
  rw [decode_eq_map, Option.map_eq_some_iff] at h
  obtain ⟨⟨d, m⟩, hrow, hd⟩ := h
  obtain ⟨htyped, rfl⟩ := Prod.mk.inj hd
  cases d with
  | instr i => cases htyped
  | invalid raw' len' => cases htyped; exact hrow

end

/-! ### The execution cycle -/

/-- Settles O47: either of the two reads of the fetch may miss, and both miss at the pc. -/
theorem stepFetchMisses : Obligations.StepFetchMisses := by
  intro s h
  refine step_of_fetch_error (fetch_miss ?_)
  rw [lengthOf_eq, ← Bool.not_eq_true, ← Bool.not_eq_true, State.readable_iff, State.readable_iff]
  exact not_and_or.1 h

/-- Settles O52: where `redirects` is false, `PcOf` leaves the fall-through alone. -/
theorem fallThroughAdvances : Obligations.FallThroughAdvances := by
  intro i s t h hr
  cases exec_pcOf h with
  | next hp => exact hp
  | offset _ _ hr' _ | target _ hr' _ => rw [hr] at hr'; cases hr'

/-- Settles O46: the step decodes the admitted window to the row and runs it. -/
theorem stepRunsDecoded : Obligations.StepRunsDecoded := by
  intro s n i hn hadm hrow
  refine step_of_ok ?_
  rw [fetchDecode_of_admitted hn hadm, decodeFetched, hrow]

/-- Settles O48: the row decoder refuses the window too, and that halt outcome keeps the state. -/
theorem stepReservedWords : Obligations.StepReservedWords := by
  intro s n len raw hn hadm hdec
  have herr : fetchDecode s = .error (.reservedInstruction raw len) := by
    rw [fetchDecode_of_admitted hn hadm, decodeFetched, decodeRow_of_decode_invalid hdec]
  exact ⟨step_of_error herr, stepOutcome_of_error herr⟩

end Sys2Proof.Machine
end

section
/-! PROOF. The integer computational instructions (41_integer.md rules R600 to R633): each claim is the next state
Laws/Instructions.lean gives, read as a frame, with the model's computation on bits read as one on integers. -/

namespace Sys2Proof.Machine

open Sys2Proof.Claims

/-! ### Comparisons and shift amounts (rules R604, R605, R633) -/

theorem aluSlt_eq_ite (a b : Word) : aluSlt a b = if a.toInt < b.toInt then 1 else 0 := by
  simp only [aluSlt, ltSigned, boolWord, decide_eq_true_eq]

theorem aluSltu_eq_ite (a b : Word) : aluSltu a b = if a.toNat < b.toNat then 1 else 0 := by
  simp only [aluSltu, ltUnsigned, boolWord, decide_eq_true_eq]

theorem toNat_low6 (v : Word) : (v.setWidth 6).toNat = v.toNat % 64 := v.toNat_setWidth 6

theorem toNat_low5 (v : Word) : (v.setWidth 5).toNat = v.toNat % 32 := v.toNat_setWidth 5

/-! ### Shifts of 32-bit words (rules R622 to R624, R631) -/

theorem toNat_low32 (v : Word) : (low32 v).toNat = lowNat v := v.toNat_setWidth 32

/-- A sign-extended word has the signed 32-bit integer congruent to its bits. -/
theorem toInt_signExtend_word (w : BitVec 32) : (w.signExtend 64).toInt = sext32Int w.toNat := by
  rw [BitVec.toInt_signExtend_of_le (by decide), BitVec.toInt_eq_toNat_bmod, sext32Int]

theorem sext32Int_mod (n : Nat) : sext32Int (n % 2 ^ 32 : Nat) = sext32Int n := Int.emod_bmod n (2 ^ 32)

theorem toInt_aluSllw (a : Word) (n : BitVec 5) : (aluSllw a n).toInt = sext32Int (lowNat a * 2 ^ n.toNat) := by
  rw [aluSllw, toInt_signExtend_word, BitVec.toNat_shiftLeft, toNat_low32, Nat.shiftLeft_eq, sext32Int_mod]
  norm_cast

theorem toInt_aluSrlw (a : Word) (n : BitVec 5) : (aluSrlw a n).toInt = sext32Int (lowNat a / 2 ^ n.toNat) := by
  rw [aluSrlw, toInt_signExtend_word, BitVec.toNat_ushiftRight, toNat_low32, Nat.shiftRight_eq_div_pow]
  norm_cast

/-- The shifted word has its integer already in the signed 32-bit range, so extending it keeps the quotient. -/
theorem toInt_aluSraw (a : Word) (n : BitVec 5) : (aluSraw a n).toInt = lowInt a / 2 ^ n.toNat := by
  rw [aluSraw, BitVec.toInt_signExtend_of_le (by decide), BitVec.toInt_sshiftRight, Int.shiftRight_eq_div_pow, lowInt,
    low32]
  norm_cast

/-! ### The instructions -/

/-- Settles O8: the two comparisons are the integers' own. -/
theorem integerRegisterResults : Obligations.IntegerRegisterResults := by
  intro s rd rs1 rs2
  simp only [← aluSlt_eq_ite, ← aluSltu_eq_ite]
  exact ⟨⟨_, writesX_of_exec (exec_add s rd rs1 rs2), BitVec.toNat_add _ _⟩,
    ⟨_, writesX_of_exec (exec_sub s rd rs1 rs2), BitVec.toInt_sub⟩,
    writesX_of_exec (exec_xor s rd rs1 rs2), writesX_of_exec (exec_or s rd rs1 rs2),
    writesX_of_exec (exec_and s rd rs1 rs2), writesX_of_exec (exec_slt s rd rs1 rs2),
    writesX_of_exec (exec_sltu s rd rs1 rs2)⟩

/-- Settles O9: register and immediate forms shift by a 6-bit amount alike. -/
theorem shiftResults : Obligations.ShiftResults := by
  intro s rd rs1 rs2 shamt
  simp only [← toNat_low6]
  exact ⟨⟨_, writesX_of_exec (exec_sll s rd rs1 rs2), toNat_shiftLeft_eq _ _⟩,
    ⟨_, writesX_of_exec (exec_srl s rd rs1 rs2), toNat_ushiftRight_eq _ _⟩,
    ⟨_, writesX_of_exec (exec_sra s rd rs1 rs2), toInt_sshiftRight_eq _ _⟩,
    ⟨_, writesX_of_exec (exec_slli s rd rs1 shamt), toNat_shiftLeft_eq _ _⟩,
    ⟨_, writesX_of_exec (exec_srli s rd rs1 shamt), toNat_ushiftRight_eq _ _⟩,
    ⟨_, writesX_of_exec (exec_srai s rd rs1 shamt), toInt_sshiftRight_eq _ _⟩⟩

/-- Settles O10, as for the register forms. -/
theorem integerImmediateResults : Obligations.IntegerImmediateResults := by
  intro s rd rs1 imm
  simp only [← aluSlt_eq_ite, ← aluSltu_eq_ite]
  exact ⟨⟨_, writesX_of_exec (exec_addi s rd rs1 imm), BitVec.toNat_add _ _⟩,
    writesX_of_exec (exec_slti s rd rs1 imm), writesX_of_exec (exec_sltiu s rd rs1 imm),
    writesX_of_exec (exec_xori s rd rs1 imm), writesX_of_exec (exec_ori s rd rs1 imm),
    writesX_of_exec (exec_andi s rd rs1 imm)⟩

/-- Settles O11: register and immediate forms compute alike, the register forms shifting by a 5-bit amount. -/
theorem wordResults : Obligations.WordResults := by
  intro s rd rs1 rs2 imm shamt
  simp only [← toNat_low5]
  exact ⟨⟨_, writesX_of_exec (exec_addw s rd rs1 rs2), toInt_aluAddw _ _⟩,
    ⟨_, writesX_of_exec (exec_subw s rd rs1 rs2), toInt_aluSubw _ _⟩,
    ⟨_, writesX_of_exec (exec_sllw s rd rs1 rs2), toInt_aluSllw _ _⟩,
    ⟨_, writesX_of_exec (exec_srlw s rd rs1 rs2), toInt_aluSrlw _ _⟩,
    ⟨_, writesX_of_exec (exec_sraw s rd rs1 rs2), toInt_aluSraw _ _⟩,
    ⟨_, writesX_of_exec (exec_addiw s rd rs1 imm), toInt_aluAddw _ _⟩,
    ⟨_, writesX_of_exec (exec_slliw s rd rs1 shamt), toInt_aluSllw _ _⟩,
    ⟨_, writesX_of_exec (exec_srliw s rd rs1 shamt), toInt_aluSrlw _ _⟩,
    ⟨_, writesX_of_exec (exec_sraiw s rd rs1 shamt), toInt_aluSraw _ _⟩⟩

end Sys2Proof.Machine
end

section
/-! PROOF. The multiply and divide instructions (42_muldiv.md rules R700 to R720): each claim is the next state
Laws/Instructions.lean gives, read as a frame, and the mathematical integer that was narrowed is the register's. -/

namespace Sys2Proof.Machine

open Sys2Proof.Claims

/-! ### Products (rules R701 to R704, R709) -/

/-- The high half of a signed word times a number of at most 64 bits fits a signed word. -/
theorem toInt_ofInt_mul_ediv (a : Word) {n : Int} (hn : |n| < 2 ^ 64) :
    (BitVec.ofInt 64 (a.toInt * n / 2 ^ 64)).toInt = a.toInt * n / 2 ^ 64 := by
  have ha : |a.toInt| ≤ 2 ^ 63 := abs_le.2 ⟨a.le_toInt, a.toInt_lt.le⟩
  have hprod : |a.toInt * n| < 2 ^ 63 * 2 ^ 64 := by
    calc |a.toInt * n| = |a.toInt| * |n| := abs_mul _ _
      _ ≤ 2 ^ 63 * |n| := mul_le_mul_of_nonneg_right ha (abs_nonneg n)
      _ < 2 ^ 63 * 2 ^ 64 := mul_lt_mul_of_pos_left hn (by decide)
  obtain ⟨hlo, hhi⟩ := abs_lt.1 hprod
  exact BitVec.toInt_ofInt_eq_self (by decide) (by omega) (by omega)

theorem toInt_mulHighSigned (a b : Word) : (mulHighSigned a b).toInt = a.toInt * b.toInt / 2 ^ 64 := by
  have hlo := b.le_toInt
  have hhi := b.toInt_lt
  exact toInt_ofInt_mul_ediv a (abs_lt.2 ⟨by omega, by omega⟩)

theorem toInt_mulHighSignedUnsigned (a b : Word) :
    (mulHighSignedUnsigned a b).toInt = a.toInt * (b.toNat : Int) / 2 ^ 64 :=
  toInt_ofInt_mul_ediv a (by rw [Nat.abs_cast]; exact mod_cast b.isLt)

theorem toNat_mulHighUnsigned (a b : Word) : (mulHighUnsigned a b).toNat = a.toNat * b.toNat / 2 ^ 64 := by
  rw [mulHighUnsigned, BitVec.toNat_ofNat, Nat.mod_eq_of_lt (Nat.div_lt_of_lt_mul BitVec.toNat_mul_toNat_lt)]

theorem toInt_mulWord (a b : Word) : (mulWord a b).toInt = sext32Int (lowInt a * lowInt b) := by
  rw [mulWord, BitVec.toInt_signExtend_of_le (by decide), BitVec.toInt_mul]
  rfl

/-! ### Quotients and remainders (rules R700, R720) -/

section

variable {w : Nat} {a b : BitVec w}

/-- The quotient leaves the signed range only in the overflow case of R720. -/
theorem toInt_ofInt_quot (hw : 0 < w) (h : ¬(a.toInt = -2 ^ (w - 1) ∧ b.toInt = -1)) :
    (BitVec.ofInt w (quot a.toInt b.toInt)).toInt = a.toInt.tdiv b.toInt := by
  have hne : a ≠ BitVec.intMin w ∨ b ≠ -1#w := by
    refine (not_and_or.1 h).imp ?_ ?_
    · rintro ha rfl
      exact ha (BitVec.toInt_intMin_of_pos hw)
    · rintro hb rfl
      exact hb (by rw [BitVec.neg_one_eq_allOnes, BitVec.toInt_allOnes, if_pos hw])
  rw [BitVec.toInt_ofInt, quot, ← BitVec.toInt_sdiv, BitVec.toInt_sdiv_of_ne_or_ne a b hne]

/-- The remainder is that of the truncating division, and always in range. -/
theorem toInt_ofInt_rem : (BitVec.ofInt w (rem a.toInt b.toInt)).toInt = a.toInt.tmod b.toInt := by
  rw [rem, quot, ← Int.tmod_def, ← BitVec.toInt_srem, BitVec.ofInt_toInt]

end

/-! ### Division of doublewords (rules R705 to R708) -/

/-- What DIV and REM compute, in the order of R720's cases. -/
theorem divSigned_remSigned (a b : Word) :
    if b = 0 then divSigned a b = ones ∧ remSigned a b = a
    else if a.toInt = -2 ^ 63 ∧ b.toInt = -1 then (divSigned a b).toInt = -2 ^ 63 ∧ remSigned a b = 0
    else (divSigned a b).toInt = a.toInt.tdiv b.toInt ∧ (remSigned a b).toInt = a.toInt.tmod b.toInt := by
  unfold divSigned remSigned
  split_ifs with hzero hover
  · exact ⟨rfl, rfl⟩
  · exact ⟨by decide, rfl⟩
  · exact ⟨toInt_ofInt_quot (by decide) hover, toInt_ofInt_rem⟩

theorem divUnsigned_remUnsigned (a b : Word) :
    if b = 0 then divUnsigned a b = ones ∧ remUnsigned a b = a
    else (divUnsigned a b).toNat = a.toNat / b.toNat ∧ (remUnsigned a b).toNat = a.toNat % b.toNat := by
  unfold divUnsigned remUnsigned
  split_ifs with hzero
  · exact ⟨rfl, rfl⟩
  · rw [← BitVec.toNat_udiv, ← BitVec.toNat_umod, BitVec.ofNat_toNat, BitVec.ofNat_toNat, BitVec.setWidth_eq,
      BitVec.setWidth_eq]
    exact ⟨rfl, rfl⟩

/-! ### Division of words (rules R710 to R713) -/

theorem toInt_sext_eq_lowInt (v : Word) : (sext 32 v).toInt = lowInt v := BitVec.toInt_signExtend_of_le (by decide)

/-- A natural number narrowed to a word and sign-extended. -/
theorem toInt_signExtend_ofNat (n : Nat) : ((BitVec.ofNat 32 n).signExtend 64).toInt = sext32Int n := by
  rw [toInt_signExtend_word, BitVec.toNat_ofNat, sext32Int_mod]

/-- What DIVW and REMW compute, in the order of R720's cases on the low words. -/
theorem divSignedWord_remSignedWord (a b : Word) :
    if lowInt b = 0 then divSignedWord a b = ones ∧ (remSignedWord a b).toInt = lowInt a
    else if lowInt a = -2 ^ 31 ∧ lowInt b = -1 then (divSignedWord a b).toInt = -2 ^ 31 ∧ remSignedWord a b = 0
    else (divSignedWord a b).toInt = (lowInt a).tdiv (lowInt b) ∧
      (remSignedWord a b).toInt = (lowInt a).tmod (lowInt b) := by
  unfold divSignedWord remSignedWord lowInt low32
  split_ifs with hzero hover
  · exact ⟨rfl, toInt_sext_eq_lowInt a⟩
  · exact ⟨by decide, rfl⟩
  · rw [BitVec.toInt_signExtend_of_le (by decide), BitVec.toInt_signExtend_of_le (by decide)]
    exact ⟨toInt_ofInt_quot (by decide) hover, toInt_ofInt_rem⟩

theorem divUnsignedWord_remUnsignedWord (a b : Word) :
    if lowNat b = 0 then divUnsignedWord a b = ones ∧ (remUnsignedWord a b).toInt = lowInt a
    else (divUnsignedWord a b).toInt = sext32Int (lowNat a / lowNat b : Nat) ∧
      (remUnsignedWord a b).toInt = sext32Int (lowNat a % lowNat b : Nat) := by
  simp only [divUnsignedWord, remUnsignedWord, toNat_low32]
  split_ifs with hzero
  · exact ⟨rfl, toInt_sext_eq_lowInt a⟩
  · exact ⟨toInt_signExtend_ofNat _, toInt_signExtend_ofNat _⟩

/-! ### The instructions -/

/-- Settles O13: the high halves fit the register, and the low halves are the products of machine words. -/
theorem multiplyResults : Obligations.MultiplyResults := by
  intro s rd rs1 rs2
  exact ⟨⟨_, writesX_of_exec (exec_mul s rd rs1 rs2), BitVec.toNat_mul _ _⟩,
    ⟨_, writesX_of_exec (exec_mulh s rd rs1 rs2), toInt_mulHighSigned _ _⟩,
    ⟨_, writesX_of_exec (exec_mulhsu s rd rs1 rs2), toInt_mulHighSignedUnsigned _ _⟩,
    ⟨_, writesX_of_exec (exec_mulhu s rd rs1 rs2), toNat_mulHighUnsigned _ _⟩,
    ⟨_, writesX_of_exec (exec_mulw s rd rs1 rs2), toInt_mulWord _ _⟩⟩

/-- Settles O14: outside the corner cases the narrowed quotient and remainder are in range. -/
theorem divideResults : Obligations.DivideResults := by
  intro s rd rs1 rs2
  exact ⟨⟨_, _, writesX_of_exec (exec_div s rd rs1 rs2), writesX_of_exec (exec_rem s rd rs1 rs2),
      divSigned_remSigned _ _⟩,
    ⟨_, _, writesX_of_exec (exec_divu s rd rs1 rs2), writesX_of_exec (exec_remu s rd rs1 rs2),
      divUnsigned_remUnsigned _ _⟩⟩

/-- Settles O15, as for doublewords, the word results sign-extended. -/
theorem wordDivideResults : Obligations.WordDivideResults := by
  intro s rd rs1 rs2
  exact ⟨⟨_, _, writesX_of_exec (exec_divw s rd rs1 rs2), writesX_of_exec (exec_remw s rd rs1 rs2),
      divSignedWord_remSignedWord _ _⟩,
    ⟨_, _, writesX_of_exec (exec_divuw s rd rs1 rs2), writesX_of_exec (exec_remuw s rd rs1 rs2),
      divUnsignedWord_remUnsignedWord _ _⟩⟩

end Sys2Proof.Machine
end

section
/-! PROOF. The integer loads and stores (43_loadstore.md rules R750 to R761): each is a load or store of the shared shape,
and the extension of the little-endian value read is that of the bytes in place. -/

namespace Sys2Proof.Machine

open Sys2Proof.Claims

/-! ### Loads that extend (rules R751 to R757) -/

section

variable {i : Instr} {s : State} {n k : Nat} {v : BitVec k} {rd rs1 : XReg} {imm : Word} {len : Nat}

theorem writesX_of_loadX_sext (hv : s.value (s.getX rs1 + imm) n = v.setWidth 64) (hk : k ≤ 64)
    (hi : exec i s = loadX n (sext k) rd rs1 imm len s) (h : ReadAdmitted s (s.getX rs1 + imm) n) :
    WritesX i s rd (v.signExtend 64) (s.pc + BitVec.ofNat 64 len) := by
  rw [← sext_setWidth hk, ← hv]
  exact writesX_of_loadX hi h

theorem writesX_of_loadX_zext (hv : s.value (s.getX rs1 + imm) n = v.setWidth 64) (hk : k ≤ 64)
    (hi : exec i s = loadX n (zext k) rd rs1 imm len s) (h : ReadAdmitted s (s.getX rs1 + imm) n) :
    WritesX i s rd (v.setWidth 64) (s.pc + BitVec.ofNat 64 len) := by
  rw [← zext_setWidth hk, ← hv]
  exact writesX_of_loadX hi h

end

/-! ### The instructions -/

/-- Settles O16: the value of 1, 2 or 4 bytes fits the low bits that are extended, and LD's fills the register. -/
theorem loadsComplete : Obligations.LoadsComplete := by
  intro s rd rs1 imm
  have hbyte := s.value_one (s.getX rs1 + imm)
  have hhalf := s.value_two (s.getX rs1 + imm)
  have hword := s.value_four (s.getX rs1 + imm)
  refine ⟨writesX_of_loadX_sext hbyte (by decide) rfl, writesX_of_loadX_sext hhalf (by decide) rfl,
    writesX_of_loadX_sext hword (by decide) rfl, ?_, writesX_of_loadX_zext hbyte (by decide) rfl,
    writesX_of_loadX_zext hhalf (by decide) rfl, writesX_of_loadX_zext hword (by decide) rfl⟩
  rw [← State.value_double]
  exact writesX_of_loadX (ext := id) rfl

/-- Settles O17: each form is a store of the shared shape. -/
theorem storesComplete : Obligations.StoresComplete := by
  intro s rs1 rs2 imm hs
  exact ⟨stores_of_storeX hs rfl, stores_of_storeX hs rfl, stores_of_storeX hs rfl, stores_of_storeX hs rfl⟩

end Sys2Proof.Machine
end

section
/-! PROOF. The jumps and the branches (44_control.md rules R800 to R810): each claim is the next state
Laws/Instructions.lean gives, read as a frame, with a branch's condition on words read as a comparison of integers. -/

namespace Sys2Proof.Machine

open Sys2Proof.Claims

/-! ### The conditions of the branches (rules R802 to R807) -/

theorem condEq_iff (a b : Word) : condEq a b = true ↔ a.toNat = b.toNat := by
  rw [condEq, decide_eq_true_iff, BitVec.toNat_inj]

theorem condNe_iff (a b : Word) : condNe a b = true ↔ a.toNat ≠ b.toNat := by
  rw [condNe, Bool.not_eq_true', ← Bool.not_eq_true, condEq_iff]

theorem condLt_iff (a b : Word) : condLt a b = true ↔ a.toInt < b.toInt := decide_eq_true_iff

theorem condGe_iff (a b : Word) : condGe a b = true ↔ a.toInt ≥ b.toInt := by
  rw [condGe, ltSigned, Bool.not_eq_true', decide_eq_false_iff_not, not_lt]

theorem condLtu_iff (a b : Word) : condLtu a b = true ↔ a.toNat < b.toNat := decide_eq_true_iff

theorem condGeu_iff (a b : Word) : condGeu a b = true ↔ a.toNat ≥ b.toNat := by
  rw [condGeu, ltUnsigned, Bool.not_eq_true', decide_eq_false_iff_not, not_lt]

/-- A branch goes where the proposition its condition decides says. -/
theorem onlyPc_of_branch {i : Instr} {s : State} {c : Bool} {p : Prop} [Decidable p] {taken next : Word}
    (hc : c = true ↔ p) (h : exec i s = .next { s with pc := if c then taken else next }) :
    OnlyPc i s (if p then taken else next) := by
  simp only [hc] at h
  exact onlyPc_of_exec h

/-! ### The instructions -/

/-- Settles O22: both link, and the target of JALR, taken from the old rs1, is the sum rounded down to an even number. -/
theorem jumpsComplete : Obligations.JumpsComplete := by
  intro s rd rs1 imm
  exact ⟨writesX_of_exec (exec_jal s rd imm),
    ⟨_, writesX_of_exec (exec_jalr s rd rs1 imm), toNat_clear_bit0 _⟩⟩

/-- Settles O23, by the condition of each branch. -/
theorem branchesComplete : Obligations.BranchesComplete := by
  intro s rs1 rs2 imm
  exact ⟨onlyPc_of_branch (condEq_iff _ _) (exec_beq s rs1 rs2 imm),
    onlyPc_of_branch (condNe_iff _ _) (exec_bne s rs1 rs2 imm),
    onlyPc_of_branch (condLt_iff _ _) (exec_blt s rs1 rs2 imm),
    onlyPc_of_branch (condGe_iff _ _) (exec_bge s rs1 rs2 imm),
    onlyPc_of_branch (condLtu_iff _ _) (exec_bltu s rs1 rs2 imm),
    onlyPc_of_branch (condGeu_iff _ _) (exec_bgeu s rs1 rs2 imm)⟩

end Sys2Proof.Machine
end

section
/-! PROOF. The upper-immediate instructions (45_upper_immediate.md rules R850, R851): each claim is the next state
Laws/Instructions.lean gives, read as a frame. -/

namespace Sys2Proof.Machine

open Sys2Proof.Claims

/-- Settles O12: the sum AUIPC writes is that of machine words, which wraps at 2^64. -/
theorem upperImmediateResults : Obligations.UpperImmediateResults := by
  intro s rd imm
  exact ⟨writesX_of_exec (exec_lui s rd imm),
    ⟨_, writesX_of_exec (exec_auipc s rd imm), BitVec.toNat_add _ _⟩⟩

end Sys2Proof.Machine
end

section
/-! PROOF. The floating-point loads, stores and moves (46_float.md rules R910 to R923), the instructions that halt with
`Unimplemented` (rule R939), and the conversions with a reserved rounding direction (rule R901). -/

namespace Sys2Proof.Machine

open Sys2Proof.Claims

/-! ### Loads, stores and moves (rules R910 to R913, R920 to R923) -/

theorem State.value_boxLow (s : State) (a : Word) : boxLow (s.value a 4) = (0xFFFFFFFF : BitVec 32) ++ wordAt s a := by
  rw [boxLow, State.value_four, low32_setWidth]
  rfl

/-- Settles O18: each form is a load or store of the shared shape, and FLW boxes the word it reads. -/
theorem floatLoadsAndStoresComplete : Obligations.FloatLoadsAndStoresComplete := by
  intro s fd rs1 imm hs
  rw [← State.value_boxLow, ← State.value_double]
  exact ⟨writesF_of_loadF (ext := boxLow) rfl, writesF_of_loadF (ext := id) rfl, stores_of_storeF hs rfl,
    stores_of_storeF hs rfl⟩

/-- Settles O28: the pattern each move writes is the one stated. -/
theorem floatMovesComplete : Obligations.FloatMovesComplete := by
  intro s r q
  exact ⟨writesX_of_exec (exec_fmvXW s r q), writesX_of_exec (exec_fmvXD s r q), writesF_of_exec (exec_fmvWX s q r),
    writesF_of_exec (exec_fmvDX s q r)⟩

/-! ### The unimplemented instructions (rule R939) -/

theorem exec_of_unimplementedFp {i : Instr} (s : State) (hi : unimplementedFp i = true) :
    exec i s = .fault (.unimplemented i) := by
  cases i <;> cases hi <;> rfl

/-- A step whose instruction halts leaves what the halt outcome records. -/
theorem stepOutcome_of_exec_fault {s : State} {i : Instr} {r : Fault} (hf : fetchDecode s = .ok i)
    (he : exec i s = .fault r) : stepOutcome s = some (haltState r s, .halted r) := by
  simp only [stepOutcome, hf, he]

/-- Settles O33: none of the 52 reads the state, and `Unimplemented` records no other state. -/
theorem unimplementedFloatStops : Obligations.UnimplementedFloatStops := by
  intro i s hi
  have he := exec_of_unimplementedFp s hi
  exact ⟨he, fun hf => stepOutcome_of_exec_fault hf he⟩

/-! ### Reserved rounding directions (rule R901) -/

/-- An R-format word as its fixed fields with rd, funct3 and rs1 put in. -/
theorem fmtR_eq_or (funct7 : BitVec 7) (rs2 rs1 : BitVec 5) (funct3 : BitVec 3) (rd : BitVec 5) (op : BitVec 7) :
    fmtR funct7 rs2 rs1 funct3 rd op
      = fmtR funct7 rs2 0 0 0 op ||| rd.setWidth 32 <<< 7 ||| funct3.setWidth 32 <<< 12 ||| rs1.setWidth 32 <<< 15 := by
  unfold fmtR
  ext i hi
  simp only [BitVec.getElem_append, BitVec.getElem_or, BitVec.getElem_shiftLeft]
  grind

theorem withRounding_reserved {i : Instr} {rm : BitVec 3} {w : BitVec 32} (h : rm = 5 ∨ rm = 6)
    (hi : encode i = .full w) (run : RoundMode → Host.Outcome State Fault Refusal) :
    withRounding i rm run = .fault (.reservedInstruction w 4) := by
  have hmode : roundMode rm = none := by rcases h with rfl | rfl <;> rfl
  rw [withRounding_none hmode, hi, codeWord]

/-- Settles O32: the word carried is the encoding, of which only rd, rm and rs1 vary. -/
theorem reservedRoundingStops : Obligations.ReservedRoundingStops := by
  intro s rd rs1 rm h
  exact ⟨withRounding_reserved h (by exact congrArg Code.full (fmtR_eq_or 0b0100000 1 rs1 rm rd 0b1010011)) _,
    withRounding_reserved h (by exact congrArg Code.full (fmtR_eq_or 0b0100001 0 rs1 rm rd 0b1010011)) _⟩

end Sys2Proof.Machine
end

section
/-! SUPPORT. The conversions between binary32 and binary64 (46_float.md rules R901, R902, R930, R931): the fields of a
pattern, the magnitude its bits stand for, and the next state of a conversion whose rounding direction is not reserved. -/

namespace Sys2Proof.Machine

open Sys2Proof.Claims

/-! ### The fields of a pattern (rule R902) -/

theorem expD_eq (d : Word) : expD d = exponentOf d := by
  rw [expD, BitVec.extractLsb'_toNat, Nat.shiftRight_eq_div_pow, exponentOf]

theorem fracD_eq (d : Word) : fracD d = fractionOf d := by
  rw [fracD, BitVec.extractLsb'_toNat, Nat.shiftRight_zero, fractionOf]

/-- The exponent and fraction of a single are the two parts of its magnitude bits. -/
theorem expS_low32 (w : Word) : expS (low32 w) = magnitudeOf w / 2 ^ 23 := by
  rw [expS, BitVec.extractLsb'_toNat, Nat.shiftRight_eq_div_pow, toNat_low32, lowNat, magnitudeOf]
  omega

theorem fracS_low32 (w : Word) : fracS (low32 w) = magnitudeOf w % 2 ^ 23 := by
  rw [fracS, BitVec.extractLsb'_toNat, Nat.shiftRight_zero, toNat_low32, lowNat, magnitudeOf]
  omega

/-! ### Magnitudes of binary32 values -/

/-- In each binade the magnitude is linear, up to the first magnitude of the next one. -/
theorem scaled32_eq {k t : Nat} (hk : k = 0 ∨ 2 ^ 23 ≤ t) (ht : t ≤ 2 ^ 24) :
    scaled32 (k * 2 ^ 23 + t) = t * 2 ^ (k + 925) := by
  rw [pow_add, ← mul_assoc, scaled32]
  congr 1
  rcases Nat.lt_or_ge t (2 ^ 23) with hlo | hlo
  · obtain rfl : k = 0 := by omega
    rw [if_pos (by omega)]
    omega
  rcases ht.lt_or_eq with hlt | rfl
  · rw [if_neg (by omega), show 2 ^ 23 + (k * 2 ^ 23 + t) % 2 ^ 23 = t by omega,
      show (k * 2 ^ 23 + t) / 2 ^ 23 - 1 = k by omega]
  · rw [if_neg (by omega), show 2 ^ 23 + (k * 2 ^ 23 + 2 ^ 24) % 2 ^ 23 = 2 ^ 23 by omega,
      show (k * 2 ^ 23 + 2 ^ 24) / 2 ^ 23 - 1 = k + 1 by omega, pow_succ]
    omega

/-- The place of a magnitude in its binade, below the first magnitude of the next one. -/
theorem exists_binade (q : Nat) : ∃ k t, q = k * 2 ^ 23 + t ∧ (k = 0 ∨ 2 ^ 23 ≤ t) ∧ t < 2 ^ 24 := by
  by_cases h : q < 2 ^ 23
  · exact ⟨0, q, by omega, .inl rfl, by omega⟩
  · exact ⟨q / 2 ^ 23 - 1, q % 2 ^ 23 + 2 ^ 23, by omega, .inr (by omega), by omega⟩

theorem scaled32_strictMono : StrictMono scaled32 := by
  refine strictMono_nat_of_lt_succ fun q => ?_
  obtain ⟨k, t, rfl, hk, ht⟩ := exists_binade q
  rw [add_assoc, scaled32_eq hk ht.le, scaled32_eq (by omega) ht]
  exact Nat.mul_lt_mul_of_pos_right t.lt_succ_self (Nat.two_pow_pos _)

/-! ### A conversion completes (rules R901, R930, R931) -/

theorem roundMode_cases {rm : BitVec 3} {mode : RoundMode} (h : roundMode rm = some mode) :
    (rm = 0 ∨ rm = 7) ∧ mode = .rne ∨ rm = 1 ∧ mode = .rtz ∨ rm = 2 ∧ mode = .rdn ∨ rm = 3 ∧ mode = .rup ∨
    rm = 4 ∧ mode = .rmm := by
  revert rm
  cases mode <;> decide

theorem exists_roundMode {rm : BitVec 3} (h5 : rm ≠ 5) (h6 : rm ≠ 6) : ∃ mode, roundMode rm = some mode := by
  rw [← Option.isSome_iff_exists]
  revert rm
  decide

section

variable {s : State} {rd rs1 : FReg} {rm : BitVec 3} {mode : RoundMode}

theorem writesF_fcvtSD (h : roundMode rm = some mode) :
    WritesF (.fcvtSD rd rs1 rm) s rd (boxS (narrow (s.getF rs1) mode)) (s.pc + 4) :=
  writesF_of_exec ((withRounding_some h _).trans (writeF_eq _ _ _ _))

theorem writesF_fcvtDS (h : roundMode rm = some mode) :
    WritesF (.fcvtDS rd rs1 rm) s rd (widen (unboxS (s.getF rs1))) (s.pc + 4) :=
  writesF_of_exec ((withRounding_some h _).trans (writeF_eq _ _ _ _))

end

end Sys2Proof.Machine
end

section
/-! PROOF. FCVT.S.D (46_float.md rule R930). The lower neighbour of a finite operand is the significand without the low
bits binary32 has no place for, and those bits compare with half of their weight as the distances to the neighbours do. -/

namespace Sys2Proof.Machine

open Sys2Proof.Claims

/-! ### The choice between two neighbours (rule R317) -/

theorem overflowMagnitude_eq {rm : BitVec 3} {mode : RoundMode} (h : roundMode rm = some mode) (neg : Bool) :
    overflowMagnitude mode neg = if overflowsToInfinity rm neg then 0x7F800000 else 0x7F7FFFFF := by
  obtain ⟨rfl | rfl, rfl⟩ | ⟨rfl, rfl⟩ | ⟨rfl, rfl⟩ | ⟨rfl, rfl⟩ | ⟨rfl, rfl⟩ := roundMode_cases h <;>
    cases neg <;> rfl

/-- A direction that takes the upper neighbour takes infinity above the largest finite value. -/
theorem overflowsToInfinity_of_takesUpper {rm : BitVec 3} {mode : RoundMode} (hm : roundMode rm = some mode)
    {neg : Bool} {q x : Nat} (h : takesUpper rm neg q x) : overflowsToInfinity rm neg = true := by
  obtain ⟨rfl | rfl, -⟩ | ⟨rfl, -⟩ | ⟨rfl, -⟩ | ⟨rfl, -⟩ | ⟨rfl, -⟩ := roundMode_cases hm
  · rfl
  · rfl
  · exact h.elim
  · exact h.1
  · exact congrArg not h.1
  · rfl

section

variable {base q r k u : Nat} (hu : 0 < u) (hlo : scaled32 (base + q) = q * 2 ^ k * u)
  (hhi : scaled32 (base + q + 1) = (q + 1) * 2 ^ k * u)

include hu hlo hhi

/-- Where two neighbours are `2^k` significand units apart, an operand `r` units above the lower one is beyond their
midpoint, or at it, exactly as `r` is to half of `2^k`. -/
theorem midpoint_compare :
    (scaled32 (base + q) + scaled32 (base + q + 1) < 2 * ((q * 2 ^ k + r) * u) ↔ 2 ^ k < 2 * r) ∧
    (scaled32 (base + q) + scaled32 (base + q + 1) = 2 * ((q * 2 ^ k + r) * u) ↔ 2 * r = 2 ^ k) := by
  have hsum : scaled32 (base + q) + scaled32 (base + q + 1) = (2 * (q * 2 ^ k) + 2 ^ k) * u := by rw [hlo, hhi]; ring
  have htwice : 2 * ((q * 2 ^ k + r) * u) = (2 * (q * 2 ^ k) + 2 * r) * u := by ring
  rw [hsum, htwice, Nat.mul_lt_mul_right hu, Nat.mul_left_inj hu.ne']
  omega

/-- The statement's choice between two neighbours is the model's. -/
theorem takesUpper_iff_roundsUp {rm : BitVec 3} {mode : RoundMode} (h : roundMode rm = some mode)
    (hbase : base % 2 = 0) (neg : Bool) :
    takesUpper rm neg (base + q) ((q * 2 ^ k + r) * u) ↔ roundsUp mode neg q r k = true := by
  obtain ⟨hlt, heq⟩ := midpoint_compare (r := r) hu hlo hhi
  have hle : scaled32 (base + q) + scaled32 (base + q + 1) ≤ 2 * ((q * 2 ^ k + r) * u) ↔ 2 ^ k ≤ 2 * r := by omega
  have hne : (q * 2 ^ k + r) * u ≠ scaled32 (base + q) ↔ r ≠ 0 := by
    rw [hlo, Ne, Nat.mul_left_inj hu.ne']
    omega
  have hodd : (base + q) % 2 = 1 ↔ q % 2 = 1 := by omega
  obtain ⟨rfl | rfl, rfl⟩ | ⟨rfl, rfl⟩ | ⟨rfl, rfl⟩ | ⟨rfl, rfl⟩ | ⟨rfl, rfl⟩ := roundMode_cases h <;>
    simp [takesUpper, roundsUp, hlt, heq, hle, hne, hodd]

end

/-! ### The binary32 magnitudes around a finite binary64 value -/

theorem significandD_lt (d : Word) : significandD d < 2 ^ 53 := by
  have hfrac := (d.extractLsb' 0 52).isLt
  unfold significandD fracD
  split <;> omega

theorem scaled64_eq (d : Word) : scaled64 d = significandD d * 2 ^ (max (expD d) 1 - 1) := by
  rw [scaled64, significandD, ← expD_eq, ← fracD_eq]
  split
  · next h => rw [h]; simp
  · next h => rw [max_eq_left (by omega)]

/-- The magnitude bits at which the operand's binade starts, less those of its significand. -/
def narrowBase (d : Word) : Nat := if 897 ≤ expD d then (expD d - 897) * 2 ^ 23 else 0

/-- How many low bits of the significand binary32 has no place for. -/
def narrowShift (d : Word) : Nat := if 897 ≤ expD d then 29 else 926 - max (expD d) 1

theorem narrowMagnitude_eq (mode : RoundMode) (d : Word) :
    narrowMagnitude mode d = narrowBase d + roundScaled mode d.msb (significandD d) (narrowShift d) := by
  unfold narrowMagnitude narrowBase narrowShift
  split
  · rfl
  · exact (Nat.zero_add _).symm

/-- The two neighbours of the operand are multiples of `2^narrowShift` in units of its significand. -/
theorem scaled32_narrowBase {d : Word} {t : Nat} (hlo : significandD d / 2 ^ narrowShift d ≤ t)
    (hhi : t ≤ significandD d / 2 ^ narrowShift d + 1) :
    scaled32 (narrowBase d + t) = t * 2 ^ narrowShift d * 2 ^ (max (expD d) 1 - 1) := by
  have hlt := significandD_lt d
  rw [mul_assoc, ← pow_add]
  unfold narrowShift narrowBase at *
  split at hlo
  · next h =>
    have hnormal : 2 ^ 52 ≤ significandD d := by
      rw [significandD, if_neg (by omega)]
      omega
    rw [if_pos h] at hhi ⊢
    have hexp : 29 + (max (expD d) 1 - 1) = expD d - 897 + 925 := by omega
    rw [if_pos h, scaled32_eq (by omega) (by omega), hexp]
  · next h =>
    rw [if_neg h] at hhi ⊢
    have hsmall : significandD d / 2 ^ (926 - max (expD d) 1) < 2 ^ 23 := by
      rw [Nat.div_lt_iff_lt_mul (Nat.two_pow_pos _), ← pow_add]
      exact hlt.trans_le (Nat.pow_le_pow_right (by decide) (by omega))
    have hexp : 926 - max (expD d) 1 + (max (expD d) 1 - 1) = 0 + 925 := by omega
    rw [if_neg h, ← Nat.zero_mul (2 ^ 23), scaled32_eq (.inl rfl) (by omega), hexp]

/-- `FCVT.S.D` rounds a finite operand to one of the two binary32 magnitudes around it, the one its direction takes. -/
theorem exists_neighbours (d : Word) :
    ∃ q, scaled32 q ≤ scaled64 d ∧ scaled64 d < scaled32 (q + 1) ∧
      ∀ (rm : BitVec 3) (mode : RoundMode), roundMode rm = some mode →
        (narrowMagnitude mode d = q ∧ ¬takesUpper rm d.msb q (scaled64 d)) ∨
        (narrowMagnitude mode d = q + 1 ∧ takesUpper rm d.msb q (scaled64 d)) := by
  have hlo := scaled32_narrowBase (d := d) le_rfl (Nat.le_succ _)
  have hhi := scaled32_narrowBase (d := d) (Nat.le_succ _) le_rfl
  have hbase : narrowBase d % 2 = 0 := by unfold narrowBase; split <;> omega
  have hu : 0 < 2 ^ (max (expD d) 1 - 1) := Nat.two_pow_pos _
  have hx := scaled64_eq d
  have hrest : significandD d % 2 ^ narrowShift d < 2 ^ narrowShift d := Nat.mod_lt _ (Nat.two_pow_pos _)
  have hparts := Nat.div_add_mod' (significandD d) (2 ^ narrowShift d)
  refine ⟨narrowBase d + significandD d / 2 ^ narrowShift d, ?_, ?_, fun rm mode h => ?_⟩
  · rw [hlo, hx]
    exact Nat.mul_le_mul_right _ (Nat.div_mul_le_self _ _)
  · rw [add_assoc, hhi, hx, Nat.mul_lt_mul_right hu, Nat.succ_mul]
    omega
  · have hupper := takesUpper_iff_roundsUp (r := significandD d % 2 ^ narrowShift d) hu hlo hhi h hbase d.msb
    rw [hparts, ← hx] at hupper
    rw [hupper, narrowMagnitude_eq, roundScaled]
    by_cases hr : roundsUp mode d.msb (significandD d / 2 ^ narrowShift d) (significandD d % 2 ^ narrowShift d)
        (narrowShift d) = true
    · exact .inr ⟨by rw [if_pos hr, add_assoc], hr⟩
    · exact .inl ⟨by rw [if_neg hr, add_zero], hr⟩

/-! ### Special values and overflow -/

section

variable {d : Word} {rm : BitVec 3} {mode : RoundMode}

theorem narrow_nan (he : exponentOf d = 2047) (hf : fractionOf d ≠ 0) : narrow d mode = cnanS := by
  rw [← expD_eq] at he
  rw [← fracD_eq] at hf
  simp [narrow, isNanD, he, hf]

theorem boxS_narrow_infinity (he : exponentOf d = 2047) (hf : fractionOf d = 0) :
    boxS (narrow d mode) = boxed d.msb 0x7F800000 := by
  rw [← expD_eq] at he
  rw [← fracD_eq] at hf
  simp [narrow, isNanD, roundToBinary32, he, hf, boxS, boxed, signD]

theorem boxS_narrow_finite (hm : roundMode rm = some mode) (he : exponentOf d ≠ 2047) :
    boxS (narrow d mode) = boxed d.msb (if 0x7F800000 ≤ narrowMagnitude mode d then
      (if overflowsToInfinity rm d.msb then 0x7F800000 else 0x7F7FFFFF) else narrowMagnitude mode d) := by
  rw [← expD_eq] at he
  simp [narrow, isNanD, roundToBinary32, he, boxS, boxed, signD, overflowMagnitude_eq hm]

end

/-- Settles O29: a magnitude of 2^128 or more is rounded to one of 2^128 or more, by its lower neighbour. -/
theorem narrowSpecialValues : Obligations.NarrowSpecialValues := by
  intro s rd rs1 rm h5 h6
  obtain ⟨mode, hm⟩ := exists_roundMode h5 h6
  have hw := writesF_fcvtSD (s := s) (rd := rd) (rs1 := rs1) hm
  refine ⟨fun he hf => ?_, fun he hf => ?_, fun he hbig => ?_⟩
  · rwa [narrow_nan he hf] at hw
  · rwa [boxS_narrow_infinity he hf] at hw
  · obtain ⟨q, -, hq, hround⟩ := exists_neighbours (s.getF rs1)
    have hle : 0x7F800000 < q + 1 := scaled32_strictMono.lt_iff_lt.1 (hbig.trans_lt hq)
    have hover : 0x7F800000 ≤ narrowMagnitude mode (s.getF rs1) := by
      obtain ⟨h, -⟩ | ⟨h, -⟩ := hround rm mode hm <;> omega
    rwa [boxS_narrow_finite hm he, if_pos hover] at hw

/-- Settles O30: the lower neighbour is below 2^128, and where the upper one reaches it the direction takes infinity. -/
theorem narrowRoundsFiniteValues : Obligations.NarrowRoundsFiniteValues := by
  intro s rd rs1 rm h5 h6 he hsmall
  obtain ⟨mode, hm⟩ := exists_roundMode h5 h6
  obtain ⟨q, hlo, hhi, hround⟩ := exists_neighbours (s.getF rs1)
  have hq : q < 0x7F800000 := scaled32_strictMono.lt_iff_lt.1 (hlo.trans_lt hsmall)
  refine ⟨q, narrowMagnitude mode (s.getF rs1), hq, hlo, hhi, hround rm mode hm, ?_⟩
  have hw := writesF_fcvtSD (s := s) (rd := rd) (rs1 := rs1) hm
  rw [boxS_narrow_finite hm he] at hw
  split at hw
  · next hover =>
    obtain ⟨h, -⟩ | ⟨h, hup⟩ := hround rm mode hm
    · omega
    · have hmax : narrowMagnitude mode (s.getF rs1) = 0x7F800000 := by omega
      rwa [if_pos (overflowsToInfinity_of_takesUpper hm hup), ← hmax] at hw
  · exact hw

end Sys2Proof.Machine
end

section
/-! PROOF. FCVT.D.S (46_float.md rule R931). Every finite single has binary64 fields of the same magnitude: a normal one
keeps its fraction, a subnormal one is shifted up until its leading bit is the hidden bit. -/

namespace Sys2Proof.Machine

open Sys2Proof.Claims

/-! ### A pattern from its fields -/

/-- The binary64 pattern of a sign, an exponent field and a fraction field. -/
def binary64 (b : Bool) (e f : Nat) : Word := BitVec.ofBool b ++ BitVec.ofNat 63 (e * 2 ^ 52 + f)

section

variable {b : Bool} {e f : Nat}

theorem msb_binary64 : (binary64 b e f).msb = b := by
  rw [binary64, BitVec.msb_append]
  simp

variable (he : e < 2 ^ 11) (hf : f < 2 ^ 52)

include he hf

theorem toNat_binary64 : (binary64 b e f).toNat = b.toNat * 2 ^ 63 + (e * 2 ^ 52 + f) := by
  rw [binary64, toNat_append_eq, BitVec.toNat_ofBool, BitVec.toNat_ofNat, Nat.mod_eq_of_lt (by omega)]

theorem exponentOf_binary64 : exponentOf (binary64 b e f) = e := by
  rw [exponentOf, toNat_binary64 he hf]
  omega

theorem fractionOf_binary64 : fractionOf (binary64 b e f) = f := by
  rw [fractionOf, toNat_binary64 he hf]
  omega

theorem scaled64_binary64 : scaled64 (binary64 b e f) = if e = 0 then f else (2 ^ 52 + f) * 2 ^ (e - 1) := by
  rw [scaled64, exponentOf_binary64 he hf, fractionOf_binary64 he hf]

end

/-! ### The fields of the result -/

theorem widen_eq_binary64 {v : BitVec 32} {e f : Nat} (hnan : isNanS v = false)
    (h : widenMagnitude v = e * 2 ^ 52 + f) : widen v = binary64 v.msb e f := by
  simp [widen, hnan, widenToBinary64, signS, h, binary64]

theorem isNanS_low32 (w : Word) : isNanS (low32 w) = decide (0x7F800000 < magnitudeOf w) := by
  have hw : magnitudeOf w < 2 ^ 31 := Nat.mod_lt _ (by decide)
  rw [isNanS, expS_low32, fracS_low32, ← Bool.decide_and, decide_eq_decide]
  omega

/-- A subnormal fraction, shifted up until its leading bit is the hidden bit. -/
theorem normalize_fraction {f : Nat} (h0 : f ≠ 0) (hlt : f < 2 ^ 23) :
    Nat.log2 f < 23 ∧ 2 ^ 52 + (f - 2 ^ Nat.log2 f) * 2 ^ (52 - Nat.log2 f) = f * 2 ^ (52 - Nat.log2 f) ∧
    f * 2 ^ (52 - Nat.log2 f) < 2 ^ 53 := by
  have hn : Nat.log2 f < 23 := (Nat.log2_lt h0).2 hlt
  have hle : 2 ^ Nat.log2 f ≤ f := Nat.log2_self_le h0
  have hsplit : 2 ^ 52 = 2 ^ Nat.log2 f * 2 ^ (52 - Nat.log2 f) := by rw [← pow_add, Nat.add_sub_cancel' (by omega)]
  refine ⟨hn, ?_, ?_⟩
  · rw [hsplit, ← add_mul, Nat.add_sub_cancel' hle]
  · calc f * 2 ^ (52 - Nat.log2 f)
      _ < 2 ^ (Nat.log2 f + 1) * 2 ^ (52 - Nat.log2 f) := Nat.mul_lt_mul_of_pos_right Nat.lt_log2_self (Nat.two_pow_pos _)
      _ = 2 ^ 53 := by rw [← pow_add]; congr 1; omega

/-- A finite single has the fields of a binary64 pattern of the same magnitude. -/
theorem exists_widen_fields {w : Word} (h : magnitudeOf w < 0x7F800000) :
    ∃ e f, widenMagnitude (low32 w) = e * 2 ^ 52 + f ∧ e < 2047 ∧ f < 2 ^ 52 ∧
      (if e = 0 then f else (2 ^ 52 + f) * 2 ^ (e - 1)) = scaled32 (magnitudeOf w) := by
  have hexp : magnitudeOf w / 2 ^ 23 < 255 := by omega
  have hfrac : magnitudeOf w % 2 ^ 23 < 2 ^ 23 := Nat.mod_lt _ (by decide)
  rw [widenMagnitude, expS_low32, fracS_low32, if_neg hexp.ne, scaled32]
  by_cases he : magnitudeOf w / 2 ^ 23 = 0
  · have hm : magnitudeOf w % 2 ^ 23 = magnitudeOf w := by omega
    rw [if_neg (not_not.2 he), if_pos he, hm]
    by_cases hzero : magnitudeOf w = 0
    · exact ⟨0, 0, if_pos hzero, by decide, by decide, by rw [if_pos rfl, hzero, Nat.zero_mul]⟩
    · obtain ⟨hn, hnorm, hlt⟩ := normalize_fraction hzero (by omega)
      rw [if_neg hzero]
      refine ⟨_, _, rfl, by omega, by omega, ?_⟩
      rw [if_neg (by omega), hnorm, mul_assoc, ← pow_add]
      have hpow : 52 - Nat.log2 (magnitudeOf w) + (Nat.log2 (magnitudeOf w) + 874 - 1) = 925 := by omega
      rw [hpow]
  · rw [if_pos he, if_neg he]
    refine ⟨_, _, rfl, by omega, by omega, ?_⟩
    have hsig : 2 ^ 52 + magnitudeOf w % 2 ^ 23 * 2 ^ 29 = (2 ^ 23 + magnitudeOf w % 2 ^ 23) * 2 ^ 29 := by omega
    have hpow : 29 + (magnitudeOf w / 2 ^ 23 + 896 - 1) = magnitudeOf w / 2 ^ 23 - 1 + 925 := by omega
    rw [if_neg (by omega), hsig, mul_assoc, mul_assoc, ← pow_add, ← pow_add, hpow]

theorem unboxS_eq (w : Word) : unboxS w = if isBoxed w then low32 w else cnanS := by
  have h : w.extractLsb' 32 32 = 0xFFFFFFFF ↔ isBoxed w = true := by
    rw [isBoxed, beq_iff_eq, ← BitVec.toNat_inj, BitVec.extractLsb'_toNat, Nat.shiftRight_eq_div_pow]
    have hw := w.isLt
    show w.toNat / 2 ^ 32 % 2 ^ 32 = 0xFFFFFFFF ↔ w.toNat / 2 ^ 32 = 0xFFFFFFFF
    omega
  simp only [unboxS, h]

/-- An operand that is not boxed or is a NaN gives the canonical NaN. -/
theorem widen_unboxS_nan {w : Word} (h : ¬(isBoxed w = true ∧ magnitudeOf w ≤ 0x7F800000)) :
    widen (unboxS w) = 0x7FF8000000000000 := by
  rw [unboxS_eq]
  split
  · next hbox =>
    have hnan : isNanS (low32 w) = true := by
      rw [isNanS_low32, decide_eq_true_iff]
      exact not_le.1 fun hle => h ⟨hbox, hle⟩
    rw [widen, if_pos hnan]
    rfl
  · rfl

/-- An infinity gives the infinity of its sign. -/
theorem widen_low32_infinity {w : Word} (h : magnitudeOf w = 0x7F800000) :
    widen (low32 w) = binary64 (low32 w).msb 2047 0 := by
  have hexp : expS (low32 w) = 255 := by
    rw [expS_low32, h]
    rfl
  refine widen_eq_binary64 ?_ ?_
  · rw [isNanS_low32, h]
    rfl
  · rw [widenMagnitude, if_pos hexp, Nat.add_zero]

/-- Settles O31: the fields of a finite result are found by cases on normal, subnormal and zero. -/
theorem widenIsExact : Obligations.WidenIsExact := by
  intro s rd rs1 rm h5 h6
  obtain ⟨mode, hm⟩ := exists_roundMode h5 h6
  refine ⟨_, writesF_fcvtDS hm, ?_⟩
  generalize s.getF rs1 = w
  split
  · next h =>
    obtain ⟨hbox, hle⟩ := h
    rw [unboxS_eq, if_pos hbox]
    by_cases hinf : magnitudeOf w = 0x7F800000
    · rw [widen_low32_infinity hinf, if_pos hinf]
      exact ⟨msb_binary64, exponentOf_binary64 (by decide) (by decide), fractionOf_binary64 (by decide) (by decide)⟩
    · obtain ⟨e, f, hfields, he, hf, hvalue⟩ := exists_widen_fields (lt_of_le_of_ne hle hinf)
      have hnan : isNanS (low32 w) = false := by
        rw [isNanS_low32, decide_eq_false_iff_not]
        exact hle.not_gt
      have he' : e < 2 ^ 11 := by omega
      rw [widen_eq_binary64 hnan hfields, if_neg hinf, exponentOf_binary64 he' hf, scaled64_binary64 he' hf]
      exact ⟨msb_binary64, he.ne, hvalue⟩
  · next h => exact widen_unboxS_nan h

end Sys2Proof.Machine
end

section
/-! PROOF. FENCE and ECALL (47_system.md rules R1000, R1010, R1011). An ECALL is its call: the effects answered, done after
the reservation is cleared, leave registers, pc and parameters alone, and the result settles how the ECALL ends. -/

namespace Sys2Proof.Machine

open Sys2Proof.Claims

/-- Settles O34, by the next state of FENCE. -/
theorem fenceCompletes : Obligations.FenceCompletes :=
  fun s fm pred succ rs1 rd => onlyPc_of_exec (exec_fence s fm pred succ rs1 rd)

/-! ### The result settled, by the number (rule R1010) -/

section

variable {c : SyscallCall}

theorem settleResult_exit (h : c.number = 93) (r : SyscallResult) : settleResult c r = .exit c.args[0] := if_pos h

theorem settleResult_exitGroup_exit (h : c.number = 94) (code : Word) : settleResult c (.exit code) = .exit code := by
  simp [settleResult, h]

theorem settleResult_exitGroup_ret (h : c.number = 94) (v : Word) : settleResult c (.ret v) = .exit c.args[0] := by
  simp [settleResult, h]

theorem settleResult_ret (h : c.number = 93 ∨ c.number = 94) (v : Word) :
    settleResult c (.ret v) = .exit c.args[0] :=
  h.elim (settleResult_exit · _) (settleResult_exitGroup_ret · v)

end

section

variable {s : State} {ops : List GuestOp} {rest : List SyscallAnswer} {v c : Word}

/-- An answer that is no exit gives a value. -/
theorem exists_answerResult_ret {a : SyscallAnswer} (h : ∀ c ops, a ≠ .recognised (.exit c) ops) (g : Config) :
    ∃ v, answerResult a g = .ret v := by
  cases a with
  | notRecognised ops => exact ⟨_, rfl⟩
  | recognised r ops =>
    cases r with
    | ret v => exact ⟨v, rfl⟩
    | exit c => exact absurd rfl (h c ops)

/-- The value of a call not recognised is `2^64 - ENOSYS`. -/
theorem toNat_notImplementedValue (g : Config) :
    (notImplementedValue g).toNat = (2 ^ 64 - g.enosys.toNat) % 2 ^ 64 := BitVec.toNat_neg _

/-! ### The state after a call -/

/-- What a call that takes its answer, with the answers `rest` left, and does `ops` makes of `s` once the reservation is
cleared (rule R1011). -/
def afterCall (s : State) (ops : List GuestOp) (rest : List SyscallAnswer) : State :=
  applyGuestOps ops { s with resv := none, syscalls := rest }

theorem afterCall_sameBlock : SameBlock { s with resv := none } (afterCall s ops rest) :=
  applyGuestOps_sameBlock ops { s with resv := none, syscalls := rest }

theorem afterCall_syscalls : (afterCall s ops rest).syscalls = rest := applyGuestOps_syscalls _ _

/-- With no answer left only the reservation goes. -/
theorem afterCall_nil (h : s.syscalls = []) : afterCall s [] [] = { s with resv := none } := by
  rw [afterCall, ← h, applyGuestOps]

theorem ecallSyscall_nil (h : s.syscalls = []) :
    syscall s.syscallCall { s with resv := none }
      = (settleResult s.syscallCall (.ret (notImplementedValue s.cfg)), afterCall s [] []) := by
  rw [afterCall_nil h]
  exact syscall_nil h

theorem ecallSyscall_cons {a : SyscallAnswer} (h : s.syscalls = a :: rest) :
    syscall s.syscallCall { s with resv := none }
      = (settleResult s.syscallCall (answerResult a s.cfg), afterCall s (answerEffects a) rest) :=
  syscall_cons h

/-- Whatever is answered, a call leaves what some effects and answers make of the state. -/
theorem exists_ecallSyscall (s : State) :
    ∃ r ops rest, syscall s.syscallCall { s with resv := none } = (r, afterCall s ops rest) := by
  by_cases h : s.syscalls = []
  · exact ⟨_, _, _, ecallSyscall_nil h⟩
  · obtain ⟨a, rest, h⟩ := List.exists_cons_of_ne_nil h
    exact ⟨_, _, _, ecallSyscall_cons h⟩

/-! ### From a call to how its ECALL ends -/

theorem exec_ecall_of_ret {u : State} (h : syscall s.syscallCall { s with resv := none } = (.ret v, u)) :
    exec .ecall s = .next { u.setX 10 v with pc := u.pc + 4 } := by
  show execEcall s = _
  rw [execEcall, h]
  exact writeX_eq 10 v 4 u

theorem exec_ecall_of_exit {u : State} (h : syscall s.syscallCall { s with resv := none } = (.exit c, u)) :
    exec .ecall s = .fault (.exit c u) := by
  show execEcall s = _
  rw [execEcall, h]
  rfl

theorem callReturns_of_syscall
    (h : syscall s.syscallCall { s with resv := none } = (.ret v, afterCall s ops rest)) :
    CallReturns s ops rest v := by
  obtain ⟨hx, hf, hpc, hresv, hcfg⟩ := afterCall_sameBlock (s := s) (ops := ops) (rest := rest)
  refine ⟨_, exec_ecall_of_ret h, fun r => ?_, fun r => ?_, congrArg (· + 4) hpc, ?_⟩
  · exact (State.getX_setX _ _ r v).trans (by rw [State.getX_congr hx]; rfl)
  · exact (State.getF_setX _ _ v r).trans (State.getF_congr hf r)
  · exact ⟨State.setX_mem _ _ _, State.setX_regions _ _ _, (State.setX_resv _ _ _).trans hresv,
      (State.setX_syscalls _ _ _).trans afterCall_syscalls, (State.setX_cfg _ _ _).trans hcfg⟩

theorem callExits_of_syscall
    (h : syscall s.syscallCall { s with resv := none } = (.exit c, afterCall s ops rest)) :
    CallExits s ops rest c := by
  obtain ⟨hx, hf, hpc, hresv, hcfg⟩ := afterCall_sameBlock (s := s) (ops := ops) (rest := rest)
  exact ⟨_, exec_ecall_of_exit h, State.getX_congr hx, State.getF_congr hf, hpc, rfl, rfl, hresv, afterCall_syscalls,
    hcfg⟩

/-- An ECALL returns or exits. -/
theorem callReturns_or_callExits (s : State) :
    ∃ ops rest v, CallReturns s ops rest v ∨ CallExits s ops rest v := by
  obtain ⟨r, ops, rest, h⟩ := exists_ecallSyscall s
  cases r with
  | ret v => exact ⟨ops, rest, v, .inl (callReturns_of_syscall h)⟩
  | exit c => exact ⟨ops, rest, c, .inr (callExits_of_syscall h)⟩

end

/-! ### The claims, by the number and the answer -/

/-- Settles O36: a number that is no exit keeps the result answered. -/
theorem syscallReturns : Obligations.SyscallReturns := by
  intro s h93 h94
  have hsettle := settleResult_other (c := s.syscallCall) h93 h94
  refine ⟨fun v ops rest h => ?_, fun ops rest h => ⟨_, toNat_notImplementedValue s.cfg, ?_⟩,
    fun h => ⟨_, toNat_notImplementedValue s.cfg, ?_⟩⟩
  · exact callReturns_of_syscall (by rw [ecallSyscall_cons h, hsettle]; rfl)
  · exact callReturns_of_syscall (by rw [ecallSyscall_cons h, hsettle]; rfl)
  · exact callReturns_of_syscall (by rw [ecallSyscall_nil h, hsettle])

/-- Settles O37: 93 and 94 settle every result but an exit answered to 94 as an exit with x10. -/
theorem syscallExits : Obligations.SyscallExits := by
  refine fun s => ⟨fun hnum h => exec_ecall_of_exit ?_, fun a rest h => ⟨fun h93 => ?_, fun h94 => ⟨?_, fun hne => ?_⟩⟩⟩
  · rw [ecallSyscall_nil h, settleResult_ret hnum, afterCall_nil h]
    rfl
  · exact callExits_of_syscall (by rw [ecallSyscall_cons h, settleResult_exit h93]; rfl)
  · rintro c ops rfl
    exact callExits_of_syscall (by rw [ecallSyscall_cons h, answerResult, settleResult_exitGroup_exit h94]; rfl)
  · obtain ⟨v, hv⟩ := exists_answerResult_ret hne s.cfg
    exact callExits_of_syscall (by rw [ecallSyscall_cons h, hv, settleResult_exitGroup_ret h94]; rfl)

/-- Settles O38: every ECALL returns or exits, and either way ends with the frame of its call. -/
theorem syscallKeepsRegisters : Obligations.SyscallKeepsRegisters := by
  refine fun s => ⟨fun h93 h94 c ops rest h => callExits_of_syscall ?_, ?_⟩
  · rw [ecallSyscall_cons h, settleResult_other h93 h94]
    rfl
  · obtain ⟨ops, rest, v, hret | hexit⟩ := callReturns_or_callExits s
    · obtain ⟨t, hexec, hx, hf, hpc, -, -, hresv, -, hcfg⟩ := hret
      exact .inl ⟨t, v, hexec, hx, hf, hpc, hresv, hcfg⟩
    · obtain ⟨t, hexec, hx, hf, hpc, -, -, hresv, -, hcfg⟩ := hexit
      exact .inr ⟨t, v, hexec, hx, hf, hpc, hresv, hcfg⟩

end Sys2Proof.Machine
end

section
/-! PROOF. The loads and stores that are not admitted (60_exceptions.md rule R1101): each is a load or store of the shared
shape, which faults with its first address before it writes anything. -/

namespace Sys2Proof.Machine

open Sys2Proof.Claims

/-! ### Admission refused (rule R211) -/

theorem readable_eq_false {s : State} {a : Word} {n : Nat} (h : ¬ReadAdmitted s a n) : s.readable a n = false :=
  Bool.eq_false_iff.2 fun hr => h (State.readable_iff.1 hr)

theorem writable_eq_false {s : State} {a : Word} {n : Nat} (h : ¬WriteAdmitted s a n) : s.writable a n = false :=
  Bool.eq_false_iff.2 fun hw => h (State.writable_iff.1 hw)

section

variable {i : Instr} {s : State} {n : Nat} {rs1 : XReg} {imm : Word} {len : Nat}

theorem faults_of_loadX {ext : Word → Word} {rd : XReg} (hi : exec i s = loadX n ext rd rs1 imm len s)
    (h : ¬ReadAdmitted s (s.getX rs1 + imm) n) : Faults i s .load (s.getX rs1 + imm) :=
  hi.trans (loadX_miss (readable_eq_false h))

theorem faults_of_loadF {ext : Word → Word} {rd : FReg} (hi : exec i s = loadF n ext rd rs1 imm len s)
    (h : ¬ReadAdmitted s (s.getX rs1 + imm) n) : Faults i s .load (s.getX rs1 + imm) :=
  hi.trans (loadF_miss (readable_eq_false h))

theorem faults_of_storeWord {v : Word} (hi : exec i s = storeWord n v rs1 imm len s)
    (h : ¬WriteAdmitted s (s.getX rs1 + imm) n) : Faults i s .store (s.getX rs1 + imm) :=
  hi.trans (storeWord_miss (writable_eq_false h))

end

/-! ### The instructions -/

/-- Settles O19: each form is a load of the shared shape, of the width its instruction reads. -/
theorem loadsFault : Obligations.LoadsFault := by
  intro s rd rs1 fd imm
  exact ⟨fun h => ⟨faults_of_loadX rfl h, faults_of_loadX rfl h⟩,
    fun h => ⟨faults_of_loadX rfl h, faults_of_loadX rfl h⟩,
    fun h => ⟨faults_of_loadX rfl h, faults_of_loadX rfl h, faults_of_loadF rfl h, faults_of_loadX rfl h⟩,
    fun h => ⟨faults_of_loadX rfl h, faults_of_loadF rfl h, faults_of_loadX rfl h, faults_of_loadF rfl h⟩,
    faults_of_loadX rfl, fun h => ⟨faults_of_loadX rfl h, faults_of_loadF rfl h⟩⟩

/-- Settles O20: each form is a store of the shared shape. -/
theorem storesFault : Obligations.StoresFault := by
  intro s rs1 rs2 fs imm
  exact ⟨faults_of_storeWord rfl, faults_of_storeWord rfl,
    fun h => ⟨faults_of_storeWord rfl h, faults_of_storeWord rfl h, faults_of_storeWord rfl h⟩,
    fun h => ⟨faults_of_storeWord rfl h, faults_of_storeWord rfl h, faults_of_storeWord rfl h,
      faults_of_storeWord rfl h⟩,
    faults_of_storeWord rfl, fun h => ⟨faults_of_storeWord rfl h, faults_of_storeWord rfl h⟩⟩

end Sys2Proof.Machine
end

section
/-! PROOF. How an instruction can end, said once for every instruction and state (`EndOf`): which instructions end with
which halt outcome (60_exceptions.md rules R1103, R1104), that none is refused, and which of those that go on keep the
reservation (48_atomic.md rule R1051). -/

namespace Sys2Proof.Machine

open Sys2Proof.Claims

/-- `i` is an atomic that is not in `IMPLEMENTED_ATOMICS` or whose address is misaligned (rules R1050, R1054). -/
def Ungated (i : Instr) (s : State) : Prop :=
  ∃ op n rs1, atomicOf i = some (op, n, rs1) ∧ (op ∉ s.cfg.implementedAtomics ∨ (s.getX rs1).toNat % n ≠ 0)

/-- What `i` can end with at `s` (rule R130). -/
inductive EndOf (i : Instr) (s : State) : Host.Outcome State Fault Refusal → Prop where
  /-- It goes on, with the reservation kept unless it is one of the instructions of rule R1051. -/
  | next (t : State) (hresv : touchesReservation i = false → t.resv = s.resv) : EndOf i s (.next t)
  /-- An access that is not admitted (rule R1101). -/
  | memoryFault (dir : Direction) (a : Word) : EndOf i s (.fault (.memoryFault dir a))
  /-- A reserved rounding direction (rule R1102). -/
  | reserved (raw : BitVec 32) (len : Nat) : EndOf i s (.fault (.reservedInstruction raw len))
  /-- The exit of a call (rule R1011). -/
  | exit (c : Word) (t : State) : EndOf i s (.fault (.exit c t))
  /-- A breakpoint (rule R1103). -/
  | breakpoint (hi : i = .ebreak ∨ i = .cEbreak) : EndOf i s (.fault .breakpoint)
  /-- An instruction that is not implemented (rule R1104). -/
  | unimplemented (hi : unimplementedFp i = true ∨ Ungated i s) : EndOf i s (.fault (.unimplemented i))

section

variable {i : Instr} {s u : State}

/-! ### The forms -/

theorem writeX_endOf {rd : XReg} {v : Word} {len : Nat} (hu : touchesReservation i = false → u.resv = s.resv) :
    EndOf i s (writeX rd v len u) := by
  rw [writeX_eq]
  exact .next _ fun hi => (State.setX_resv u rd v).trans (hu hi)

/-- LR and SC may write the reservation as well. -/
theorem writeX_endOf_of_touches {rd : XReg} {v : Word} {len : Nat} (hi : touchesReservation i = true) :
    EndOf i s (writeX rd v len u) :=
  writeX_endOf fun hf => Bool.noConfusion (hi.symm.trans hf)

theorem writeF_endOf {rd : FReg} {v : Word} {len : Nat} : EndOf i s (writeF rd v len s) := by
  rw [writeF_eq]
  exact .next _ fun _ => rfl

theorem advance_endOf {len : Nat} (hu : u.resv = s.resv) : EndOf i s (advance len u) := .next _ fun _ => hu

theorem jump_endOf {rd : XReg} {v p : Word} : EndOf i s (redirect p (s.setX rd v)) :=
  .next _ fun _ => State.setX_resv s rd v

theorem branch_endOf {cond : Word → Word → Bool} {rs1 rs2 : XReg} {imm : Word} {len : Nat} :
    EndOf i s (branch cond rs1 rs2 imm len s) := by
  rw [branch_eq]
  exact .next _ fun _ => rfl

/-- A read ends the instruction with a memory fault, or as what follows it ends. -/
theorem andThen_memRead_endOf {a : Word} {n : Nat} {k : Word → Host.Outcome State Fault Refusal}
    (hk : ∀ v, EndOf i s (k v)) : EndOf i s (andThen (memRead s a n) k) := by
  cases hr : memRead s a n with
  | ok v => exact hk v
  | error r => rw [memRead_error hr]; exact .memoryFault _ _

/-- A write ends the instruction with a memory fault, or as what follows it ends, the reservation kept. -/
theorem andThen_memWrite_endOf {a v : Word} {n : Nat} {k : State → Host.Outcome State Fault Refusal}
    (hk : ∀ u, u.resv = s.resv → EndOf i s (k u)) : EndOf i s (andThen (memWrite s a n v) k) := by
  cases hr : memWrite s a n v with
  | ok u =>
    obtain ⟨-, rfl⟩ := memWrite_ok hr
    exact hk _ rfl
  | error r => rw [memWrite_error hr]; exact .memoryFault _ _

theorem loadX_endOf {n : Nat} {ext : Word → Word} {rd rs1 : XReg} {imm : Word} {len : Nat} :
    EndOf i s (loadX n ext rd rs1 imm len s) := andThen_memRead_endOf fun _ => writeX_endOf fun _ => rfl

theorem loadF_endOf {n : Nat} {ext : Word → Word} {rd : FReg} {rs1 : XReg} {imm : Word} {len : Nat} :
    EndOf i s (loadF n ext rd rs1 imm len s) := andThen_memRead_endOf fun _ => writeF_endOf

theorem storeWord_endOf {n : Nat} {v : Word} {rs1 : XReg} {imm : Word} {len : Nat} :
    EndOf i s (storeWord n v rs1 imm len s) := andThen_memWrite_endOf fun _ => advance_endOf

theorem withRounding_endOf {j : Instr} {rm : BitVec 3} {run : RoundMode → Host.Outcome State Fault Refusal}
    (hrun : ∀ mode, EndOf i s (run mode)) : EndOf i s (withRounding j rm run) := by
  cases hm : roundMode rm with
  | some mode => rw [withRounding_some hm]; exact hrun mode
  | none => rw [withRounding_none hm]; exact .reserved _ _

theorem gated_endOf {op : AtomicOp} {n : Nat} {rs1 : XReg} {run : Host.Outcome State Fault Refusal}
    (hi : atomicOf i = some (op, n, rs1)) (hrun : EndOf i s run) : EndOf i s (gated op i (s.getX rs1) n s run) := by
  by_cases hg : op ∈ s.cfg.implementedAtomics ∧ (s.getX rs1).toNat % n = 0
  · rw [gated_run hg]; exact hrun
  · rw [gated_stop hg]; exact .unimplemented (.inr ⟨op, n, rs1, hi, not_and_or.1 hg⟩)

theorem loadReserved_endOf {op : AtomicOp} {w : ResvWidth} {ext : Word → Word} {rd rs1 : XReg}
    (hi : atomicOf i = some (op, w.bytes, rs1)) (ht : touchesReservation i = true) :
    EndOf i s (loadReserved op i w ext rd rs1 s) :=
  gated_endOf hi (andThen_memRead_endOf fun _ => writeX_endOf_of_touches ht)

theorem storeConditional_endOf {op : AtomicOp} {w : ResvWidth} {rd rs1 rs2 : XReg}
    (hi : atomicOf i = some (op, w.bytes, rs1)) (ht : touchesReservation i = true) :
    EndOf i s (storeConditional op i w rd rs1 rs2 s) := by
  refine gated_endOf hi ?_
  split
  · exact andThen_memWrite_endOf fun _ _ => writeX_endOf_of_touches ht
  · exact writeX_endOf_of_touches ht

theorem amo_endOf {op : AtomicOp} {w : ResvWidth} {ext : Word → Word} {g : Word → Word → Word} {rd rs1 rs2 : XReg}
    (hi : atomicOf i = some (op, w.bytes, rs1)) : EndOf i s (amo op i w ext g rd rs1 rs2 s) :=
  gated_endOf hi (andThen_memRead_endOf fun _ => andThen_memWrite_endOf fun _ hu => writeX_endOf fun _ => hu)

theorem execEcall_endOf : EndOf .ecall s (execEcall s) := by
  unfold execEcall
  split
  · exact writeX_endOf_of_touches rfl
  · exact .exit _ _

/-! ### Every instruction -/

/-- Every instruction ends as `EndOf` says. -/
theorem exec_endOf (i : Instr) (s : State) : EndOf i s (exec i s) := by
  cases i with
  | jal | cJ | jalr | cJr | cJalr => exact jump_endOf
  | beq | bne | blt | bge | bltu | bgeu | cBeqz | cBnez => exact branch_endOf
  | lb | lh | lw | ld | lbu | lhu | lwu | cLw | cLd | cLwsp | cLdsp => exact loadX_endOf
  | flw | fld | cFld | cFldsp => exact loadF_endOf
  | sb | sh | sw | sd | fsw | fsd | cFsd | cSw | cSd | cFsdsp | cSwsp | cSdsp => exact storeWord_endOf
  | lrW | lrD => exact loadReserved_endOf rfl rfl
  | scW | scD => exact storeConditional_endOf rfl rfl
  | amoswapW | amoaddW | amoxorW | amoandW | amoorW | amominW | amomaxW | amominuW | amomaxuW
  | amoswapD | amoaddD | amoxorD | amoandD | amoorD | amominD | amomaxD | amominuD | amomaxuD => exact amo_endOf rfl
  | fence => exact advance_endOf rfl
  | ecall => exact execEcall_endOf
  | ebreak => exact .breakpoint (.inl rfl)
  | cEbreak => exact .breakpoint (.inr rfl)
  | fmvWX | fmvDX => exact writeF_endOf
  | fcvtSD | fcvtDS => exact withRounding_endOf fun _ => writeF_endOf
  | lui | auipc | addi | slti | sltiu | xori | ori | andi | slli | srli | srai | add | sub | sll | slt | sltu | xor
  | srl | sra | or | and | addiw | slliw | srliw | sraiw | addw | subw | sllw | srlw | sraw
  | mul | mulh | mulhsu | mulhu | div | divu | rem | remu | mulw | divw | divuw | remw | remuw
  | fmvXW | fmvXD | cAddi4spn | cNop | cAddi | cAddiw | cLi | cAddi16sp | cLui | cSrli | cSrai | cAndi | cSub | cXor
  | cOr | cAnd | cSubw | cAddw | cSlli | cMv | cAdd => exact writeX_endOf fun _ => rfl
  | _ => exact .unimplemented (.inl rfl)

/-- An instruction whose end is known ends so as `EndOf` says. -/
theorem endOf_of_exec {o : Host.Outcome State Fault Refusal} (h : exec i s = o) : EndOf i s o := h ▸ exec_endOf i s

end

/-! ### The claims -/

/-- Settles O35: the two words are their encodings, and `EndOf` has `Break` for the two instructions alone. -/
theorem breakpointStops : Obligations.BreakpointStops := by
  refine ⟨by decide, by decide, fun i s => ⟨fun h => ?_, ?_⟩⟩
  · cases endOf_of_exec h with
    | breakpoint hi => exact hi
  · rintro (rfl | rfl) <;> rfl

/-- Settles O55: `EndOf` has `Unimplemented` with the instruction itself, and no refusal. -/
theorem unimplementedProducers : Obligations.UnimplementedProducers := by
  refine ⟨fun i j s h => ?_, fun i s r h => ?_⟩
  · cases endOf_of_exec h with
    | unimplemented hi => exact ⟨rfl, hi⟩
  · cases endOf_of_exec h

/-- Settles O45, by the reservation of the next state in `EndOf`. -/
theorem reservationKept : Obligations.ReservationKept := by
  intro i s t h hi
  cases endOf_of_exec h with
  | next _ hresv => exact hresv hi

end Sys2Proof.Machine
end

section
/-! PROOF. The atomics (48_atomic.md rules R1050 to R1081): each of the 22 is an LR, an SC or an AMO of the shared shape
(`AtomicForm`), whose gate, accesses and effect are said once per shape. -/

namespace Sys2Proof.Machine

open Sys2Proof.Claims

/-! ### The three shapes -/

/-- The shape of the atomic `i` with this name, this width and the address in rs1. -/
inductive AtomicForm (i : Instr) (s : State) (rs1 : XReg) : AtomicOp → Nat → Prop where
  /-- LR (rules R1060, R1071). -/
  | loadReserved {op : AtomicOp} {w : ResvWidth} {ext : Word → Word} {rd : XReg} (hop : op ≠ .scW ∧ op ≠ .scD)
      (hamo : isAmo i ≠ true) (hi : exec i s = loadReserved op i w ext rd rs1 s) : AtomicForm i s rs1 op w.bytes
  /-- SC.W (rule R1061). -/
  | scW {rd rs2 : XReg} (hamo : isAmo i ≠ true) (hi : exec i s = storeConditional .scW i .w4 rd rs1 rs2 s) :
      AtomicForm i s rs1 .scW 4
  /-- SC.D (rule R1072). -/
  | scD {rd rs2 : XReg} (hamo : isAmo i ≠ true) (hi : exec i s = storeConditional .scD i .w8 rd rs1 rs2 s) :
      AtomicForm i s rs1 .scD 8
  /-- An AMO (rule R1055). -/
  | amo {op : AtomicOp} {w : ResvWidth} {ext : Word → Word} {g : Word → Word → Word} {rd rs2 : XReg}
      (hop : op ≠ .scW ∧ op ≠ .scD) (hi : exec i s = amo op i w ext g rd rs1 rs2 s) : AtomicForm i s rs1 op w.bytes

theorem atomicForm_of_atomicOf {i : Instr} {op : AtomicOp} {n : Nat} {rs1 : XReg}
    (h : atomicOf i = some (op, n, rs1)) (s : State) : AtomicForm i s rs1 op n := by
  cases i with
  | lrW => cases h; exact .loadReserved (w := .w4) (by decide) Bool.false_ne_true rfl
  | lrD => cases h; exact .loadReserved (w := .w8) (by decide) Bool.false_ne_true rfl
  | scW => cases h; exact .scW Bool.false_ne_true rfl
  | scD => cases h; exact .scD Bool.false_ne_true rfl
  | amoswapW | amoaddW | amoxorW | amoandW | amoorW | amominW | amomaxW | amominuW | amomaxuW =>
    cases h; exact .amo (w := .w4) (by decide) rfl
  | amoswapD | amoaddD | amoxorD | amoandD | amoorD | amominD | amomaxD | amominuD | amomaxuD =>
    cases h; exact .amo (w := .w8) (by decide) rfl
  | _ => cases h

/-- Every shape begins with the gate. -/
theorem AtomicForm.exec_eq_gated {i : Instr} {s : State} {rs1 : XReg} {op : AtomicOp} {n : Nat}
    (h : AtomicForm i s rs1 op n) : ∃ run, exec i s = gated op i (s.getX rs1) n s run := by
  cases h with
  | loadReserved _ _ hi | scW _ hi | scD _ hi | amo _ hi => exact ⟨_, hi⟩

/-! ### The bytes written (rule R213) -/

/-- In a canonical memory the low bytes of a value read as written, and the other bytes as before. -/
theorem storedBytes_of_mem {t : State} {a n : Nat} {v : Word} (hs : s.mem.wf = true)
    (h : t.mem = s.mem.setBytes a (leBytes n v)) : StoredBytes t a n v ∧ SameBytesOutside s t a n := by
  refine ⟨fun k hk => ?_, fun b hb => ?_⟩
  · rw [h, Memory.byte_setBytes hs, leBytes_length, Nat.add_sub_cancel_left, if_pos (by omega), leBytes_getD n v k hk]
  · rw [h, Memory.byte_setBytes_outside _ _ (by rwa [leBytes_length])]

section

variable {i : Instr} {s : State} {op : AtomicOp} {w : ResvWidth} {ext : Word → Word} {g : Word → Word → Word}
  {rd rs1 rs2 : XReg}

-- The gate is passed (rules R1050, R1054).
variable (hg : op ∈ s.cfg.implementedAtomics ∧ (s.getX rs1).toNat % w.bytes = 0)

include hg

/-! ### Past the gate, the accesses (rule R1053) -/

theorem faults_of_loadReserved (hi : exec i s = loadReserved op i w ext rd rs1 s)
    (h : ¬ReadAdmitted s (s.getX rs1) w.bytes) : Faults i s .load (s.getX rs1) := by
  rw [Faults, hi, loadReserved, gated_run hg, memRead_miss (readable_eq_false h), andThen_error]

theorem faults_of_storeConditional (hi : exec i s = storeConditional op i w rd rs1 rs2 s)
    (hresv : s.resv = some (s.getX rs1, w)) (h : ¬WriteAdmitted s (s.getX rs1) w.bytes) :
    Faults i s .store (s.getX rs1) := by
  rw [Faults, hi, storeConditional, gated_run hg, if_pos hresv, memWrite_miss _ (writable_eq_false h), andThen_error]

theorem faults_of_amo_read (hi : exec i s = amo op i w ext g rd rs1 rs2 s)
    (h : ¬ReadAdmitted s (s.getX rs1) w.bytes) : Faults i s .load (s.getX rs1) := by
  rw [Faults, hi, amo, gated_run hg, memRead_miss (readable_eq_false h), andThen_error]

theorem faults_of_amo_write (hi : exec i s = amo op i w ext g rd rs1 rs2 s)
    (hr : ReadAdmitted s (s.getX rs1) w.bytes) (h : ¬WriteAdmitted s (s.getX rs1) w.bytes) :
    Faults i s .store (s.getX rs1) := by
  rw [Faults, hi, amo, gated_run hg, memRead_of_readable (State.readable_iff.2 hr), andThen_ok,
    memWrite_miss _ (writable_eq_false h), andThen_error]

/-! ### The next states -/

theorem exec_of_loadReserved (hi : exec i s = loadReserved op i w ext rd rs1 s)
    (hr : ReadAdmitted s (s.getX rs1) w.bytes) :
    exec i s = .next { ({ s with resv := some (s.getX rs1, w) } : State).setX rd (ext (s.value (s.getX rs1) w.bytes)) with
      pc := s.pc + 4 } := by
  rw [hi, loadReserved, gated_run hg, memRead_of_readable (State.readable_iff.2 hr), andThen_ok, writeX_eq]
  rfl

theorem exec_of_storeConditional_fail (hi : exec i s = storeConditional op i w rd rs1 rs2 s)
    (hresv : s.resv ≠ some (s.getX rs1, w)) :
    exec i s = .next { ({ s with resv := none } : State).setX rd 1 with pc := s.pc + 4 } := by
  rw [hi, storeConditional, gated_run hg, if_neg hresv, writeX_eq]
  rfl

theorem exec_of_storeConditional_success (hi : exec i s = storeConditional op i w rd rs1 rs2 s)
    (hresv : s.resv = some (s.getX rs1, w)) (hw : WriteAdmitted s (s.getX rs1) w.bytes) :
    exec i s = .next { ({ s with
        mem := s.mem.setBytes (s.getX rs1).toNat (leBytes w.bytes (s.getX rs2)), resv := none } : State).setX rd 0 with
      pc := s.pc + 4 } := by
  rw [hi, storeConditional, gated_run hg, if_pos hresv, memWrite_of_writable _ (State.writable_iff.2 hw), andThen_ok,
    writeX_eq]
  rfl

theorem exec_of_amo (hi : exec i s = amo op i w ext g rd rs1 rs2 s)
    (hw : WriteAdmitted s (s.getX rs1) w.bytes) :
    exec i s = .next { ({ s with
        mem := s.mem.setBytes (s.getX rs1).toNat
          (leBytes w.bytes (g (s.value (s.getX rs1) w.bytes) (s.getX rs2))) } : State).setX rd
          (ext (s.value (s.getX rs1) w.bytes)) with
      pc := s.pc + 4 } := by
  have hwritable := State.writable_iff.2 hw
  rw [hi, amo, gated_run hg, memRead_of_readable (State.readable_of_writable hwritable), andThen_ok,
    memWrite_of_writable _ hwritable, andThen_ok, writeX_eq]
  rfl

/-! ### From the next states to the claims' frames -/

theorem loadReserved_completes (hi : exec i s = loadReserved op i w ext rd rs1 s)
    (hr : ReadAdmitted s (s.getX rs1) w.bytes) :
    ∃ t, exec i s = .next t ∧ OnlyX s t rd (ext (s.value (s.getX rs1) w.bytes)) ∧ t.resv = some (s.getX rs1, w) ∧
      t.pc = s.pc + 4 ∧ SameF s t ∧ SameBytes s t ∧ SameTables s t :=
  ⟨_, exec_of_loadReserved hg hi hr, fun r => State.getX_setX _ rd r _, State.setX_resv _ _ _, rfl,
    State.getF_setX _ _ _, fun a => congrArg (·.byte a) (State.setX_mem _ _ _), State.setX_regions _ _ _,
    State.setX_cfg _ _ _, State.setX_syscalls _ _ _⟩

theorem scFails_of_storeConditional (hi : exec i s = storeConditional op i w rd rs1 rs2 s)
    (hresv : s.resv ≠ some (s.getX rs1, w)) : ScFails i s rd :=
  ⟨_, exec_of_storeConditional_fail hg hi hresv, fun r => State.getX_setX _ rd r _,
    fun a => congrArg (·.byte a) (State.setX_mem _ _ _), rfl, State.getF_setX _ _ _, State.setX_resv _ _ _,
    State.setX_regions _ _ _, State.setX_cfg _ _ _, State.setX_syscalls _ _ _⟩

theorem scSucceeds_of_storeConditional (hs : s.mem.wf = true) (hi : exec i s = storeConditional op i w rd rs1 rs2 s)
    (hresv : s.resv = some (s.getX rs1, w)) (hw : WriteAdmitted s (s.getX rs1) w.bytes) :
    ScSucceeds i s rd (s.getX rs1) w.bytes (s.getX rs2) := by
  refine ⟨_, exec_of_storeConditional_success hg hi hresv hw, fun r => State.getX_setX _ rd r _,
    and_assoc.1 ⟨storedBytes_of_mem hs (State.setX_mem _ _ _), ?_⟩⟩
  exact ⟨rfl, State.getF_setX _ _ _, State.setX_resv _ _ _, State.setX_regions _ _ _, State.setX_cfg _ _ _,
    State.setX_syscalls _ _ _⟩

theorem amoEffect_of_amo (hs : s.mem.wf = true) (hi : exec i s = amo op i w ext g rd rs1 rs2 s)
    (hw : WriteAdmitted s (s.getX rs1) w.bytes) :
    AmoEffect i s rd (s.getX rs1) w.bytes (ext (s.value (s.getX rs1) w.bytes))
      (g (s.value (s.getX rs1) w.bytes) (s.getX rs2)) := by
  refine ⟨_, exec_of_amo hg hi hw, fun r => State.getX_setX _ rd r _,
    and_assoc.1 ⟨storedBytes_of_mem hs (State.setX_mem _ _ _), ?_⟩⟩
  exact ⟨rfl, State.getF_setX _ _ _, State.setX_resv _ _ _, State.setX_regions _ _ _, State.setX_cfg _ _ _,
    State.setX_syscalls _ _ _⟩

end

/-! ### Word and doubleword AMOs (rules R1062 to R1070, R1073 to R1081) -/

section

variable {i : Instr} {s : State} {op : AtomicOp} {rd rs1 rs2 : XReg}

theorem low32_value_four (s : State) (a : Word) : low32 (s.value a 4) = wordAt s a := by
  rw [State.value_four, low32_setWidth]
  rfl

/-- A word AMO computes on the word in memory and the low word of rs2. -/
theorem amoEffect_word (g : BitVec 32 → BitVec 32 → BitVec 32) (hs : s.mem.wf = true)
    (hi : exec i s = amo op i .w4 (sext 32) (onWords g) rd rs1 rs2 s) (hal : (s.getX rs1).toNat % 4 = 0)
    (hw : WriteAdmitted s (s.getX rs1) 4) (hop : op ∈ s.cfg.implementedAtomics) :
    AmoEffect i s rd (s.getX rs1) 4 ((wordAt s (s.getX rs1)).signExtend 64)
      ((g (wordAt s (s.getX rs1)) ((s.getX rs2).setWidth 32)).setWidth 64) := by
  rw [← State.value_word, ← low32_value_four]
  exact (amoEffect_of_amo ⟨hop, hal⟩ hs hi hw :)

/-- A doubleword AMO computes on the doubleword in memory and rs2. -/
theorem amoEffect_double (g : Word → Word → Word) (hs : s.mem.wf = true)
    (hi : exec i s = amo op i .w8 id g rd rs1 rs2 s) (hal : (s.getX rs1).toNat % 8 = 0)
    (hw : WriteAdmitted s (s.getX rs1) 8) (hop : op ∈ s.cfg.implementedAtomics) :
    AmoEffect i s rd (s.getX rs1) 8 (doubleAt s (s.getX rs1)) (g (doubleAt s (s.getX rs1)) (s.getX rs2)) := by
  rw [← State.value_double]
  exact (amoEffect_of_amo ⟨hop, hal⟩ hs hi hw :)

end

/-! ### The claims -/

/-- Settles O43: every shape begins with the gate, which stops. -/
theorem atomicsGated : Obligations.AtomicsGated := by
  intro i s op n rs1 hi h
  obtain ⟨run, hrun⟩ := (atomicForm_of_atomicOf hi s).exec_eq_gated
  rw [hrun, gated_stop (not_and_or.2 h)]

/-- Settles O44, by the accesses of each shape past the gate; the clauses on the other shapes are void. -/
theorem atomicsFault : Obligations.AtomicsFault := by
  intro i s op n rs1 h hop hal
  cases atomicForm_of_atomicOf h s with
  | loadReserved hsc hamo hi =>
    exact ⟨fun _ _ => faults_of_loadReserved ⟨hop, hal⟩ hi, fun h => absurd h hamo,
      fun h => absurd h hsc.1, fun h => absurd h hsc.2⟩
  | scW hamo hi =>
    exact ⟨fun h => absurd rfl h, fun h => absurd h hamo,
      fun _ => faults_of_storeConditional (w := .w4) ⟨hop, hal⟩ hi, nofun⟩
  | scD hamo hi =>
    exact ⟨fun _ h => absurd rfl h, fun h => absurd h hamo, nofun,
      fun _ => faults_of_storeConditional (w := .w8) ⟨hop, hal⟩ hi⟩
  | amo hsc hi =>
    exact ⟨fun _ _ => faults_of_amo_read ⟨hop, hal⟩ hi, fun _ => faults_of_amo_write ⟨hop, hal⟩ hi,
      fun h => absurd h hsc.1, fun h => absurd h hsc.2⟩

/-- Settles O41: LR.W extends the word it reads, LR.D reads the whole register. -/
theorem loadReservedCompletes : Obligations.LoadReservedCompletes := by
  intro s rd rs1 aq rl
  rw [← State.value_word, ← State.value_double]
  exact ⟨fun hop hal => loadReserved_completes (w := .w4) (ext := sext 32) ⟨hop, hal⟩ rfl,
    fun hop hal => loadReserved_completes (w := .w8) (ext := id) ⟨hop, hal⟩ rfl⟩

/-- Settles O42: the reservation decides between the two ends of SC. -/
theorem storeConditionalCompletes : Obligations.StoreConditionalCompletes := by
  intro s rd rs1 rs2 aq rl hs
  exact ⟨fun hop hal => scSucceeds_of_storeConditional (w := .w4) ⟨hop, hal⟩ hs rfl,
    fun hop hal => scFails_of_storeConditional (w := .w4) ⟨hop, hal⟩ rfl,
    fun hop hal => scSucceeds_of_storeConditional (w := .w8) ⟨hop, hal⟩ hs rfl,
    fun hop hal => scFails_of_storeConditional (w := .w8) ⟨hop, hal⟩ rfl⟩

/-- Settles O39: each is the shared AMO with its own operation on words. -/
theorem wordAmosComplete : Obligations.WordAmosComplete := by
  intro s rd rs1 rs2 aq rl hs hal hw
  exact ⟨amoEffect_word amoSwap hs rfl hal hw, amoEffect_word (· + ·) hs rfl hal hw,
    amoEffect_word (· ^^^ ·) hs rfl hal hw, amoEffect_word (· &&& ·) hs rfl hal hw,
    amoEffect_word (· ||| ·) hs rfl hal hw, amoEffect_word amoMin hs rfl hal hw, amoEffect_word amoMax hs rfl hal hw,
    amoEffect_word amoMinu hs rfl hal hw, amoEffect_word amoMaxu hs rfl hal hw⟩

/-- Settles O40: each is the shared AMO with its own operation on doublewords. -/
theorem doubleAmosComplete : Obligations.DoubleAmosComplete := by
  intro s rd rs1 rs2 aq rl hs hal hw
  exact ⟨amoEffect_double amoSwap hs rfl hal hw, amoEffect_double (· + ·) hs rfl hal hw,
    amoEffect_double (· ^^^ ·) hs rfl hal hw, amoEffect_double (· &&& ·) hs rfl hal hw,
    amoEffect_double (· ||| ·) hs rfl hal hw, amoEffect_double amoMin hs rfl hal hw,
    amoEffect_double amoMax hs rfl hal hw, amoEffect_double amoMinu hs rfl hal hw,
    amoEffect_double amoMaxu hs rfl hal hw⟩

end Sys2Proof.Machine
end

section
/-! PROOF. The stack installation (70_reset_and_hazards.md rule R1203): the allocation's answer, with x2 set on success. -/

namespace Sys2Proof.Machine

open Sys2Proof.Claims

theorem installStack_error {s : State} {n : Word} {draw : Option Word} {e : ResourceError}
    (h : allocate n true draw s = .error e) : installStack n draw s = .error e := by
  rw [installStack, h]

theorem installStack_ok {s t : State} {n b : Word} {draw : Option Word} (h : allocate n true draw s = .ok (b, t)) :
    installStack n draw s = .ok (b, t.setX 2 (b + n)) := by
  rw [installStack, h]

/-- Settles O60, by the frame of the write of x2. -/
theorem installStackSetsSp : Obligations.InstallStackSetsSp := by
  refine fun s n draw => ⟨fun e => installStack_error, fun b t h => ⟨_, installStack_ok h, fun r => ?_, ?_⟩⟩
  · exact t.getX_setX 2 r (b + n)
  · exact ⟨t.getF_setX 2 _, t.setX_pc _ _, t.setX_mem _ _, t.setX_regions _ _, t.setX_resv _ _⟩

end Sys2Proof.Machine
end

section
/-! PROOF. Words of the spec and the instructions they stand for (30_encoding.md, 95_test_vectors.md section 2). -/

namespace Sys2Proof

/-- Settles O1: the decoder run on the words. -/
theorem decodesSpecWords : Obligations.DecodesSpecWords := by
  unfold Obligations.DecodesSpecWords
  decide +kernel

end Sys2Proof
end
